-- ==== Sys2Proof/Word.lean ====
section
/-! DEFINITION. The word and byte types of the block (00_scope.md R6, R7). -/

namespace Sys2Proof

/-- R6, R7: a Word is an unsigned 32-bit value; its `+` is addition modulo 2^32 (R125). -/
abbrev Word := BitVec 32

/-- One byte of a message, of BLK or of the digest (R6, R8). -/
abbrev Byte := BitVec 8

end Sys2Proof
end

