-- ==== Sys2Proof/Syntax.lean ====
section
/-! DEFINITION. The command set: one constructor per row of spec/opcode_table.json (30_encoding.md R102). -/

namespace Sys2Proof

/-- R102: the five commands. FINAL's operand is its 6-bit field N, an unsigned byte count 0..63 (R101). -/
inductive Instr where
  /-- R192: no operation. -/
  | nop
  /-- R193: start a message. -/
  | init
  /-- R195: absorb the 64 bytes of BLK. -/
  | block
  /-- R198: absorb the first `n` bytes of BLK, pad and finish. -/
  | final (n : BitVec 6)
  /-- R203: clear the error record. -/
  | clrerr
  deriving DecidableEq, Repr

end Sys2Proof
end

