-- ==== Sys2Proof/Decode.lean ====
section
/-! DEFINITION. Command words: the decoder, total over all 2^32 words (30_encoding.md R100 to R105), and the encoder. -/

namespace Sys2Proof

/-- R104: why a word is no command. -/
inductive DecodeError where
  /-- OP is one of the reserved values 0x5..0xF. -/
  | reservedOp (op : BitVec 4)
  /-- A reserved bit is set: any of bits 31:4, or for FINAL any of bits 7:4 and 31:14. -/
  | reservedBits
  deriving DecidableEq, Repr

/-- R100: the field OP, bits [3:0]. -/
def opField (c : Word) : BitVec 4 := c.extractLsb' 0 4

/-- R100, R101: the field N, bits [13:8], neither scaled nor sign-extended. -/
def nField (c : Word) : BitVec 6 := c.extractLsb' 8 6

/-- R103: bits [31:4] are all 0, as every command but FINAL requires. -/
def plainReservedClear (c : Word) : Bool := c.extractLsb' 4 28 == 0

/-- R103: bits [7:4] and [31:14] are all 0, as FINAL requires. -/
def finalReservedClear (c : Word) : Bool := c.extractLsb' 4 4 == 0 && c.extractLsb' 14 18 == 0

/-- R103: the legality predicate. -/
def legal (c : Word) : Bool :=
  ((opField c == 0x0 || opField c == 0x1 || opField c == 0x2 || opField c == 0x4) && plainReservedClear c)
    || (opField c == 0x3 && finalReservedClear c)

/-- A command without an operand, unless a reserved bit is set (R104). -/
def decodePlain (i : Instr) (c : Word) : Except DecodeError Instr :=
  if plainReservedClear c then .ok i else .error .reservedBits

/-- R102 to R105: the command a word selects, or why it is illegal. It depends on the word alone. -/
def decode (c : Word) : Except DecodeError Instr :=
  match (opField c).toNat with
  | 0 => decodePlain .nop c
  | 1 => decodePlain .init c
  | 2 => decodePlain .block c
  | 3 => if finalReservedClear c then .ok (.final (nField c)) else .error .reservedBits
  | 4 => decodePlain .clrerr c
  | _ => .error (.reservedOp (opField c))

/-- R102: a command's word. -/
def encode : Instr → Word
  | .nop => 0x00000000
  | .init => 0x00000001
  | .block => 0x00000002
  | .final n => 0x00000003 + (n.setWidth 32 <<< 8)
  | .clrerr => 0x00000004

/-- One row of the opcode map of R102: a word `c` selects the row iff `c and mask = pattern`. -/
structure OpcodeRow where
  mnemonic : String
  pattern : Word
  mask : Word
  deriving DecidableEq, Repr

/-- R102, opcode_table.json: the row of a command. -/
def opcodeRow : Instr → OpcodeRow
  | .nop => ⟨"NOP", 0x00000000, 0xFFFFFFFF⟩
  | .init => ⟨"INIT", 0x00000001, 0xFFFFFFFF⟩
  | .block => ⟨"BLOCK", 0x00000002, 0xFFFFFFFF⟩
  | .final _ => ⟨"FINAL", 0x00000003, 0xFFFFC0FF⟩
  | .clrerr => ⟨"CLRERR", 0x00000004, 0xFFFFFFFF⟩

/-- R102: the word `c` selects the row `r`. -/
def OpcodeRow.selects (r : OpcodeRow) (c : Word) : Bool := c &&& r.mask == r.pattern

/-- The instruction the decoder reads from a table word. Every command is exactly one 32-bit word (R105), written
as one 32-bit value (R100), so no byte order comes in; bits above 31 do not exist and a number that has them is
no command. -/
def decodeTableWord (nbits w : Nat) : Option Instr :=
  if nbits ≤ 32 ∧ w < 2 ^ 32 then (decode (BitVec.ofNat 32 w)).toOption else none

end Sys2Proof
end

