-- ==== Sys2Proof/Config.lean ====
section
/-! DEFINITION. The open parameters of the spec, as constants with no body: nothing can be proved of their values. -/

namespace Sys2Proof

/-- R60, I10: `BASE`, the platform's base address of the register space (log entry 6). -/
opaque Config.base : Nat

/-- R6, R261, R263, I9: `T_BLOCK`, as the number of host turns between the acceptance of a BLOCK and its
completion; any finite value, drawn afresh at each acceptance (log entry 2). -/
opaque Config.tBlock : Nat → Nat

/-- R6, R261, R263, I9: `T_FINAL`, as `tBlock`, for a FINAL (log entry 2). -/
opaque Config.tFinal : Nat → Nat

/-- R23, R24, I7: the unspecified Words that the working registers and the schedule hold after a completion:
draw number, then position (log entry 4). -/
opaque Config.freeWord : Nat → Nat → Word

end Sys2Proof
end

