-- ==== Sys2Proof/Machine/Registers.lean ====
section
/-! DEFINITION. The two register groups of the datapath (10_state.md R22, R23). -/

namespace Sys2Proof.Machine

/-- R22: `H[0..7]`, the eight persistent state Words. -/
structure HashState where
  h0 : Word
  h1 : Word
  h2 : Word
  h3 : Word
  h4 : Word
  h5 : Word
  h6 : Word
  h7 : Word
  deriving DecidableEq, Repr

/-- R23: `a..h`, the eight working registers. -/
structure Working where
  a : Word
  b : Word
  c : Word
  d : Word
  e : Word
  f : Word
  g : Word
  h : Word
  deriving DecidableEq, Repr

end Sys2Proof.Machine
end

