-- ==== Sys2Proof/Machine/State.lean ====
section
/-! DEFINITION. The state of the block and of the host that drives it (10_state.md R20; 00_scope.md R10), the stops, and the state after reset. -/

namespace Sys2Proof.Machine

/-- R28: the message state. -/
inductive Mode where
  /-- No message open. -/
  | idle
  /-- OPEN: started by INIT and not finished. -/
  | opened
  /-- FINAL has completed and H holds the final state. -/
  | done
  deriving DecidableEq, Repr

/-- R20, R29: the accepted command that the engine has still to complete. -/
inductive Pending where
  | block
  | final (n : BitVec 6)
  deriving DecidableEq, Repr

/-- R220: the causes of an error. -/
inductive ErrorCode where
  | illegalCmd
  | badSequence
  | lengthOverflow
  | busyViolation
  | badAccess
  deriving DecidableEq, Repr

/-- R106, R264: one line of the host's program. -/
inductive HostLine where
  /-- R72: `HostWrite(off, width, v)`; WR32 has width 4, WR8 width 1, and other widths are ill-formed (R64).
  A 1-byte write carries the low byte of the 32-bit bus value (log entry 8). -/
  | write (off width : Nat) (v : Word)
  /-- R70: `HostRead(off, width)`. -/
  | read (off width : Nat)
  /-- R106: BUSYLOOP: if the last value read had bit 0 = 1, go to the line with this number. -/
  | busyLoop (target : Nat)
  /-- R250, R264: the host asserts the block's reset input (log entry 13). -/
  | assertReset
  deriving DecidableEq, Repr

/-- R10, R80, R106: the host as an agent: its program, the number of its next line, and every value it has read,
newest first (log entry 1). -/
structure HostAgent where
  program : List HostLine
  pc : Nat
  reads : List Word
  deriving DecidableEq, Repr

/-- R26, R37: the bytes of BLK that are not 0x00, each with its host offset 0x40 + j, offsets strictly rising
(log entry 10). -/
abbrev Memory := List Host.Cell

/-- R20: the block's complete state, then the model's own fields `delay` and `draws` (log entry 2) and the host
(log entry 1). -/
structure State where
  /-- H[0..7] (R22). -/
  hash : HashState
  /-- a..h (R23). -/
  working : Working
  /-- W[0..63] (R24). -/
  schedule : Vector Word 64
  /-- BLK[0..63] (R26). -/
  blk : Memory
  /-- COUNT (R27). -/
  count : BitVec 64
  /-- MODE (R28). -/
  mode : Mode
  /-- BUSY (R29). -/
  busy : Bool
  /-- PEND (R29). -/
  pend : Option Pending
  /-- ERR (R30). -/
  err : Bool
  /-- ERRCODE (R30). -/
  errcode : BitVec 4
  /-- ERROVF (R30). -/
  errovf : Bool
  /-- How many host turns are still to pass before the engine's step. -/
  delay : Nat
  /-- How many times a free value has been drawn. -/
  draws : Nat
  /-- The host. -/
  host : HostAgent
  deriving DecidableEq, Repr

/-- How a step can stop. No command stops: each of these is about an access or a state that the spec does not cover. -/
inductive Fault where
  /-- The host accesses an offset above 0xFF, which the block does not decode and the platform answers (R61).
  Raised by a host line; safe: the model stops where the platform decides (log entry 5). -/
  | outsideSpace
  /-- BUSY = 1 with nothing pending, which no reachable state has (R31.1). Raised by the engine's step; safe: the
  model stops (log entry 7). -/
  | busyWithoutPending
  deriving DecidableEq, Repr

/-- How an instruction can have no meaning. -/
inductive Refusal where
  /-- The instruction's arm in exec has no meaning yet. Raised by no arm now; safe. -/
  | notModelled (mnemonic : String)
  deriving DecidableEq, Repr

/-- R250: the machine right after reset, with no host program loaded (log entry 1). The working registers and the
schedule, which the spec leaves unspecified, are 0 (log entry 3). -/
def State.reset : State where
  hash := initialValue
  working := ⟨0, 0, 0, 0, 0, 0, 0, 0⟩
  schedule := Vector.replicate 64 0
  blk := []
  count := 0
  mode := .idle
  busy := false
  pend := none
  err := false
  errcode := 0
  errovf := false
  delay := 0
  draws := 0
  host := ⟨[], 0, []⟩

end Sys2Proof.Machine
end

