-- ==== Sys2Proof/Machine/Ops.lean ====
section
/-! DEFINITION. The named operations over the state: the BLK memory, the error record, acceptance, reset, the agents' bookkeeping. -/

namespace Sys2Proof.Machine

/-- R37, R250: the byte at an address; one that is not listed reads 0x00, BLK's reset content. -/
def Memory.read : Memory → Nat → Byte
  | [], _ => 0
  | (k, v) :: m, a => if k = a then v else Memory.read m a

/-- A byte put in front of a canonical list, unless it is what an unlisted address reads as. -/
def Memory.consCell (a : Nat) (b : Byte) (m : Memory) : Memory := if b = 0 then m else (a, b) :: m

/-- R72: the memory with one byte replaced, in canonical form again. -/
def Memory.write : Memory → Nat → Byte → Memory
  | [], a, b => Memory.consCell a b []
  | (k, v) :: m, a, b =>
    if a < k then Memory.consCell a b ((k, v) :: m)
    else if a = k then Memory.consCell a b m
    else (k, v) :: Memory.write m a b

/-- The canonical form of BLK: offsets strictly rising and inside the BLK window, no byte equal to 0x00. -/
abbrev Memory.wf (m : Memory) : Prop :=
  m.Pairwise (fun x y => x.1 < y.1) ∧ ∀ c ∈ m, 0x40 ≤ c.1 ∧ c.1 ≤ 0x7F ∧ c.2 ≠ 0

/-- R72: a store of consecutive bytes from an address up. -/
def Memory.writeBytes (m : Memory) (a : Nat) : List Byte → Memory
  | [] => m
  | b :: bs => Memory.writeBytes (Memory.write m a b) (a + 1) bs

/-- R72: BLK with bytes stored from host offset `off` up. -/
def storeBytes (off : Nat) (bs : List Byte) (s : State) : State := { s with blk := s.blk.writeBytes off bs }

/-- R220: the code that STATUS.ERRCODE shows for a cause. -/
def ErrorCode.code : ErrorCode → BitVec 4
  | .illegalCmd => 1
  | .badSequence => 2
  | .lengthOverflow => 3
  | .busyViolation => 4
  | .badAccess => 5

/-- R224: `record_error`, the block's one way of reporting an error. It never traps (R229). -/
def recordError (e : ErrorCode) (s : State) : State :=
  if s.err then { s with errovf := true } else { s with err := true, errcode := e.code }

/-- R203: the error record cleared. -/
def clearErrors (s : State) : State := { s with err := false, errcode := 0, errovf := false }

/-- R190: the check every command makes first: while BUSY = 1 it records BUSY_VIOLATION and does nothing else. -/
def unlessBusy (s : State) (k : State → State) : Host.Outcome State Fault Refusal :=
  .next (if s.busy then recordError .busyViolation s else k s)

/-- R6: MAXBYTES, the greatest length of a message. -/
def maxBytes : Nat := 2 ^ 61 - 1

/-- R193: a new message: H <- IV, COUNT <- 0, MODE <- OPEN. -/
def startMessage (s : State) : State := { s with hash := initialValue, count := 0, mode := .opened }

/-- R6, R263: the latency of an accepted command, a free value (log entry 2). -/
def latency : Pending → Nat → Nat
  | .block, k => Config.tBlock k
  | .final _, k => Config.tFinal k

/-- R195, R198: BUSY <- 1 and PEND <- the command; its latency is drawn. -/
def accept (p : Pending) (s : State) : State :=
  { s with busy := true, pend := some p, delay := latency p s.draws, draws := s.draws + 1 }

/-- R195, R198: the acceptance checks, in their order, of a command that absorbs `n` bytes. -/
def acceptIfOpen (p : Pending) (n : Nat) (s : State) : State :=
  if s.mode ≠ .opened then recordError .badSequence s
  else if s.count.toNat + n > maxBytes then recordError .lengthOverflow s
  else accept p s

/-- R23, I7: the working registers after a completion, unspecified (log entry 4). -/
def freeWorking (k : Nat) : Working :=
  ⟨Config.freeWord k 0, Config.freeWord k 1, Config.freeWord k 2, Config.freeWord k 3,
   Config.freeWord k 4, Config.freeWord k 5, Config.freeWord k 6, Config.freeWord k 7⟩

/-- R24, I7: the schedule after a completion, unspecified (log entry 4). -/
def freeSchedule (k : Nat) : Vector Word 64 := Vector.ofFn fun i => Config.freeWord k (8 + i.val)

/-- R196, R201: what every completion does: H and COUNT get their new values, MODE its new mode, BUSY <- 0 and
PEND <- none; the datapath registers are left unspecified. -/
def complete (hash : HashState) (count : BitVec 64) (mode : Mode) (s : State) : State :=
  { s with
    hash := hash, count := count, mode := mode, busy := false, pend := none
    working := freeWorking s.draws, schedule := freeSchedule s.draws, draws := s.draws + 1 }

/-- R250, R251: the reset input asserted: every element of the block at its reset value, a pending command dropped.
The host, which is outside the block, goes on (log entry 13). -/
def assertReset (s : State) : State := { State.reset with draws := s.draws, host := s.host }

/-- R263: one host turn of the busy period has passed (log entry 2). -/
def tick (s : State) : State := { s with delay := s.delay - 1 }

/-- R80: the host goes on to its next line. -/
def advanceHost (s : State) : State := { s with host := { s.host with pc := s.host.pc + 1 } }

/-- R106: the host goes on at the line with the given number. -/
def jumpHost (target : Nat) (s : State) : State := { s with host := { s.host with pc := target } }

/-- R106, R207: the host has read a value. -/
def noteRead (v : Word) (s : State) : State := { s with host := { s.host with reads := v :: s.host.reads } }

end Sys2Proof.Machine
end

