-- ==== Sys2Proof/Machine/Absorb.lean ====
section
/-! DEFINITION. The commands that absorb bytes: the acceptance of BLOCK and FINAL (42_commands.md R195, R198). Their completion is the engine's (Engine.lean). -/

namespace Sys2Proof.Machine

/-- R195: BLOCK is accepted if MODE = OPEN and COUNT + 64 stays within MAXBYTES. -/
def execBlock (s : State) : Host.Outcome State Fault Refusal := unlessBusy s (acceptIfOpen .block 64)

/-- R198: FINAL n is accepted if MODE = OPEN and COUNT + n stays within MAXBYTES. -/
def execFinal (n : BitVec 6) (s : State) : Host.Outcome State Fault Refusal :=
  unlessBusy s (acceptIfOpen (.final n) n.toNat)

end Sys2Proof.Machine
end

