-- ==== Sys2Proof/Machine/Control.lean ====
section
/-! DEFINITION. The commands that only steer the block: NOP, INIT, CLRERR (42_commands.md R192, R193, R203). -/

namespace Sys2Proof.Machine

/-- R192: NOP changes nothing. -/
def execNop (s : State) : Host.Outcome State Fault Refusal := unlessBusy s fun s => s

/-- R193, R194: INIT starts a message, in every MODE; an open message is abandoned and a digest discarded. -/
def execInit (s : State) : Host.Outcome State Fault Refusal := unlessBusy s startMessage

/-- R203: CLRERR clears the error record. -/
def execClrerr (s : State) : Host.Outcome State Fault Refusal := unlessBusy s clearErrors

end Sys2Proof.Machine
end

