-- ==== Sys2Proof/Machine/Dispatch.lean ====
section
/-! DEFINITION. The meaning of each command: what the CMD write that issues it does (42_commands.md R190 to R203). -/

namespace Sys2Proof.Machine

def exec (i : Instr) (s : State) : Host.Outcome State Fault Refusal :=
  match i with
  | .nop => Sys2Proof.Machine.execNop s
  | .init => Sys2Proof.Machine.execInit s
  | .block => Sys2Proof.Machine.execBlock s
  | .final n => Sys2Proof.Machine.execFinal n s
  | .clrerr => Sys2Proof.Machine.execClrerr s

end Sys2Proof.Machine
end

