-- ==== Sys2Proof/Machine/Flags.lean ====
section
/-! DEFINITION. The STATUS register (10_state.md R34, R35). The block has no other flags, and no arithmetic sets one (R39). -/

namespace Sys2Proof.Machine

/-- A condition as one bit at position `i` of a Word. -/
def flagAt (b : Bool) (i : Nat) : Word := (BitVec.ofBool b).setWidth 32 <<< i

/-- R35: STATUS, `ERROVF<<8 | ERRCODE<<4 | ERR<<3 | (MODE=DONE)<<2 | (MODE=OPEN)<<1 | BUSY`. -/
def statusWord (s : State) : Word :=
  flagAt s.errovf 8 ||| s.errcode.setWidth 32 <<< 4 ||| flagAt s.err 3 ||| flagAt (s.mode == .done) 2
    ||| flagAt (s.mode == .opened) 1 ||| flagAt s.busy 0

end Sys2Proof.Machine
end

