-- ==== Sys2Proof/Machine/Primitives.lean ====
section
/-! DEFINITION. Word primitives and mixing functions (40_primitives.md R120 to R133) and byte serialization (00_scope.md R8). -/

namespace Sys2Proof.Machine

/-- R121: SHR, logical shift right with zero fill, 0 ≤ n ≤ 31. -/
def shr (x : Word) (n : Nat) : Word := x >>> n

/-- R122: SHL, logical shift left, 0 ≤ n ≤ 31. -/
def shl (x : Word) (n : Nat) : Word := x <<< n

/-- R123: ROTR, 1 ≤ n ≤ 31; at n = 0 it is x, as D22 recommends (log entry 9). -/
def rotr (x : Word) (n : Nat) : Word := shr x n ||| shl x (32 - n)

/-- R124: ROTL, 1 ≤ n ≤ 31; at n = 0 it is x (log entry 9). Nothing else in the block uses it (N13). -/
def rotl (x : Word) (n : Nat) : Word := shl x n ||| shr x (32 - n)

/-- R127: σ0. -/
def sigma0 (x : Word) : Word := rotr x 7 ^^^ rotr x 18 ^^^ shr x 3

/-- R128: σ1. -/
def sigma1 (x : Word) : Word := rotr x 17 ^^^ rotr x 19 ^^^ shr x 10

/-- R129: Σ0. -/
def bigSigma0 (x : Word) : Word := rotr x 2 ^^^ rotr x 13 ^^^ rotr x 22

/-- R130: Σ1. -/
def bigSigma1 (x : Word) : Word := rotr x 6 ^^^ rotr x 11 ^^^ rotr x 25

/-- R131: Ch. -/
def choice (x y z : Word) : Word := (x &&& y) ^^^ (~~~x &&& z)

/-- R132: Maj. -/
def majority (x y z : Word) : Word := (x &&& y) ^^^ (x &&& z) ^^^ (y &&& z)

/-- R8, R153: four bytes as a Word, most significant first. -/
def be32 (b0 b1 b2 b3 : Byte) : Word :=
  shl (b0.setWidth 32) 24 ||| shl (b1.setWidth 32) 16 ||| shl (b2.setWidth 32) 8 ||| b3.setWidth 32

/-- R8: byte `k` of a Word's big-endian serialization, `v[31-8k : 24-8k]` (R63), k in 0..3. -/
def laneOf (v : Word) (k : Nat) : Byte := v.extractLsb' (24 - 8 * k) 8

/-- R8: a Word as four bytes, most significant first. -/
def bytesBe32 (v : Word) : List Byte := [laneOf v 0, laneOf v 1, laneOf v 2, laneOf v 3]

/-- R8: a 64-bit value as eight bytes, most significant first. -/
def bytesBe64 (v : BitVec 64) : List Byte :=
  bytesBe32 (v.extractLsb' 32 32) ++ bytesBe32 (v.extractLsb' 0 32)

end Sys2Proof.Machine
end

