-- ==== Sys2Proof/Machine/Compress.lean ====
section
/-! DEFINITION. The datapath as pure functions: schedule, rounds, compression, padding, digest (41_compression.md R152 to R168). -/

namespace Sys2Proof.Machine

/-- R22: the state Words in the order H[0] to H[7]. -/
def HashState.words (s : HashState) : List Word := [s.h0, s.h1, s.h2, s.h3, s.h4, s.h5, s.h6, s.h7]

/-- R153: message Word `M[i]` of a block of 64 bytes (log entry 14: a byte that is not there reads 0). -/
def messageWord (block : List Byte) (i : Nat) : Word :=
  be32 (block.getD (4 * i) 0) (block.getD (4 * i + 1) 0) (block.getD (4 * i + 2) 0) (block.getD (4 * i + 3) 0)

/-- R154: the first 16 schedule Words, `W[t] = M[t]`. -/
def messageWords (block : List Byte) : List Word := (List.range 16).map (messageWord block)

/-- R155: `W[t]` from the Words before it. -/
def expandWord (w : List Word) (t : Nat) : Word :=
  sigma1 (w.getD (t - 2) 0) + w.getD (t - 7) 0 + sigma0 (w.getD (t - 15) 0) + w.getD (t - 16) 0

/-- R155: the schedule expander, for t = 16 to 63 in increasing order. -/
def schedule (block : List Byte) : List Word :=
  (List.range' 16 48).foldl (fun w t => w ++ [expandWord w t]) (messageWords block)

/-- R157: the working registers at the start of a compression. -/
def loadWorking (s : HashState) : Working := ⟨s.h0, s.h1, s.h2, s.h3, s.h4, s.h5, s.h6, s.h7⟩

/-- R158: the temporary t0 of a round, from the round's constant and schedule Word. -/
def tempZero (k w : Word) (r : Working) : Word := w + k + bigSigma1 r.e + choice r.e r.f r.g + r.h

/-- R158: the temporary t1 of a round. -/
def tempOne (r : Working) : Word := bigSigma0 r.a + majority r.a r.b r.c

/-- R158: one round, every right-hand side read before any register is written. -/
def roundStep (k w : Word) (r : Working) : Working where
  a := tempZero k w r + tempOne r
  b := r.a
  c := r.b
  d := r.c
  e := r.d + tempZero k w r
  f := r.e
  g := r.f
  h := r.g

/-- R156, R159: rounds 0 to n - 1 in order, on the registers the previous round left. -/
def rounds (w : List Word) (n : Nat) (r : Working) : Working :=
  (List.range n).foldl (fun r t => roundStep (roundConstant t) (w.getD t 0) r) r

/-- R161: the feed-forward addition. -/
def feedForward (s : HashState) (r : Working) : HashState :=
  ⟨s.h0 + r.a, s.h1 + r.b, s.h2 + r.c, s.h3 + r.d, s.h4 + r.e, s.h5 + r.f, s.h6 + r.g, s.h7 + r.h⟩

/-- R163: the compression function. It is total. -/
def compress (s : HashState) (block : List Byte) : HashState :=
  feedForward s (rounds (schedule block) 64 (loadWorking s))

/-- R165: the length field, the bit length of an L-byte message as eight bytes. -/
def lengthField (L : Nat) : List Byte := bytesBe64 (BitVec.ofNat 64 (8 * L))

/-- R164: the number of blocks the padding unit makes from a tail of n bytes. -/
def padBlocks (n : Nat) : Nat := if n ≤ 55 then 1 else 2

/-- R164: the padded tail as one byte sequence: the tail, 0x80, zeros (55 - n or 119 - n of them), the length. -/
def padBytes (tail : List Byte) (L : Nat) : List Byte :=
  tail ++ [0x80] ++ List.replicate (64 * padBlocks tail.length - 9 - tail.length) 0 ++ lengthField L

/-- R164: the padding unit, for a tail of 0 to 63 bytes. -/
def pad (tail : List Byte) (L : Nat) : List (List Byte) :=
  (List.range (padBlocks tail.length)).map fun j => ((padBytes tail L).drop (64 * j)).take 64

/-- R164, R201: the state after every block of a list, in order ("processed exactly as in step 2"). -/
def absorb (s : HashState) (blocks : List (List Byte)) : HashState := blocks.foldl compress s

/-- R166: the 32 bytes of the digest, H[0] first, most significant byte first. -/
def digestBytes (s : HashState) : List Byte := s.words.flatMap bytesBe32

end Sys2Proof.Machine
end

