-- ==== Sys2Proof/Machine/Operands.lean ====
section
/-! DEFINITION. The operands of the commands and the windows of the register space, as views of the state (30_encoding.md R100, R101; 10_state.md R36 to R38). -/

namespace Sys2Proof.Machine

/-- R37: the host offset of `BLK[0]`. -/
def blkBase : Nat := 0x40

/-- R38: the host offset of `D[0]`. -/
def digestBase : Nat := 0x80

/-- R26: `BLK[j]`, j in 0..63. -/
def blkByte (s : State) (j : Nat) : Byte := s.blk.read (blkBase + j)

/-- R196, R198: `BLK[0..n-1]`, the operand of BLOCK (n = 64) and of FINAL n. -/
def blkBytes (s : State) (n : Nat) : List Byte := (List.range n).map (blkByte s)

/-- R37: the Word that a 4-byte access sees at `BLK[j..j+3]`. -/
def blkWord (s : State) (j : Nat) : Word :=
  be32 (blkByte s j) (blkByte s (j + 1)) (blkByte s (j + 2)) (blkByte s (j + 3))

/-- R38: the Word of the DIGEST window with index i in 0..7: H[i] in MODE = DONE, else 0. -/
def digestWord (s : State) (i : Nat) : Word := if s.mode = .done then s.hash.words.getD i 0 else 0

/-- R38, R166: the byte of the DIGEST window with index j in 0..31: D[j] in MODE = DONE, else 0. -/
def digestByte (s : State) (j : Nat) : Byte := if s.mode = .done then (digestBytes s.hash).getD j 0 else 0

/-- R36: COUNT_LO. -/
def countLo (s : State) : Word := s.count.extractLsb' 0 32

/-- R36: COUNT_HI. -/
def countHi (s : State) : Word := s.count.extractLsb' 32 32

end Sys2Proof.Machine
end

