-- ==== Sys2Proof/Machine/Bus.lean ====
section
/-! DEFINITION. The register space as the host sees it: HostRead, HostWrite and the issue of a command (20_memory.md R60 to R78; 42_commands.md R190). -/

namespace Sys2Proof.Machine

/-- R60, R61: the offset in the block's register space of a platform address, if it lies in it (log entry 6). -/
def busOffset (addr : Nat) : Option Nat :=
  if Config.base ≤ addr ∧ addr < Config.base + 0x100 then some (addr - Config.base) else none

/-- R190: `Command(c)`. BUSY is tested first, then legality; then the command runs. -/
def command (c : Word) (s : State) : Host.Outcome State Fault Refusal :=
  if s.busy then .next (recordError .busyViolation s)
  else match decode c with
    | .error _ => .next (recordError .illegalCmd s)
    | .ok i => exec i s

/-- R70: what an aligned 4-byte read returns. -/
def readWord (off : Nat) (s : State) : Word :=
  if off = 0x04 then statusWord s
  else if off = 0x08 then countLo s
  else if off = 0x0C then countHi s
  else if 0x40 ≤ off ∧ off ≤ 0x7C then blkWord s (off - blkBase)
  else if 0x80 ≤ off ∧ off ≤ 0x9C then digestWord s ((off - digestBase) / 4)
  else 0

/-- R70: what a 1-byte read returns. -/
def readByte (off : Nat) (s : State) : Byte :=
  if 0x40 ≤ off ∧ off ≤ 0x7F then blkByte s (off - blkBase)
  else if 0x80 ≤ off ∧ off ≤ 0x9F then digestByte s (off - digestBase)
  else 0

/-- R70: `HostRead(off, w)`, zero-extended to the 32-bit bus (log entry 8). An ill-formed read returns 0 (R64). -/
def hostRead (off width : Nat) (s : State) : Word :=
  if width = 4 ∧ off % 4 = 0 then readWord off s
  else if width = 1 then (readByte off s).setWidth 32
  else 0

/-- R72, R77: a well-formed write to BLK, refused while BUSY = 1. -/
def writeBlk (off : Nat) (bs : List Byte) (s : State) : State :=
  if s.busy then recordError .busyViolation s else storeBytes off bs s

/-- R72: `HostWrite(off, w, v)`. -/
def hostWrite (off width : Nat) (v : Word) (s : State) : Host.Outcome State Fault Refusal :=
  if width = 4 ∧ off = 0x00 then command v s
  else if width = 4 ∧ off % 4 = 0 ∧ 0x40 ≤ off ∧ off ≤ 0x7C then .next (writeBlk off (bytesBe32 v) s)
  else if width = 1 ∧ 0x40 ≤ off ∧ off ≤ 0x7F then .next (writeBlk off [v.setWidth 8] s)
  else .next (recordError .badAccess s)

end Sys2Proof.Machine
end

