-- ==== Sys2Proof/Machine/Engine.lean ====
section
/-! DEFINITION. The engine agent: the completion of BLOCK and FINAL as one atomic step (42_commands.md R196, R201, R204). -/

namespace Sys2Proof.Machine

/-- R196: BLOCK completes. -/
def completeBlock (s : State) : State :=
  complete (compress s.hash (blkBytes s 64)) (s.count + 64) s.mode s

/-- R201: the message length that FINAL n sees, the n tail bytes included. -/
def finalLength (n : BitVec 6) (s : State) : Nat := s.count.toNat + n.toNat

/-- R201: FINAL n completes. -/
def completeFinal (n : BitVec 6) (s : State) : State :=
  complete (absorb s.hash (pad (blkBytes s n.toNat) (finalLength n s)))
    (BitVec.ofNat 64 (finalLength n s)) .done s

/-- R204: the engine's step performs the completion of PEND. -/
def engineStep (s : State) : Host.Outcome State Fault Refusal :=
  match s.pend with
  | none => .fault .busyWithoutPending
  | some .block => .next (completeBlock s)
  | some (.final n) => .next (completeFinal n s)

end Sys2Proof.Machine
end

