-- ==== Sys2Proof/Machine/Agents.lean ====
section
/-! DEFINITION. The two agents and whose turn it is (00_scope.md R10; 20_memory.md R80; 70_reset_and_hazards.md R261, R263). -/

namespace Sys2Proof.Machine

/-- R106: the last value the host read had bit 0 = 1 (no value read yet: no, log entry 12). -/
def lastReadOdd (s : State) : Bool :=
  match s.host.reads with
  | [] => false
  | v :: _ => v.getLsbD 0

/-- R60, R61: the offset belongs to the register space. -/
def inSpace (off : Nat) : Bool := off ≤ 0xFF

/-- R106, R264: what one host line does, the host's position apart. -/
def runLine (l : HostLine) (s : State) : Host.Outcome State Fault Refusal :=
  match l with
  | .write off width v => if inSpace off then hostWrite off width v s else .fault .outsideSpace
  | .read off width => if inSpace off then .next (noteRead (hostRead off width s) s) else .fault .outsideSpace
  | .busyLoop target => .next (if lastReadOdd s then jumpHost target s else s)
  | .assertReset => .next (assertReset s)

/-- R80: the host's turn: its next line, in program order. A host that has made its last access does nothing (R207). -/
def hostTurn (s : State) : Host.Outcome State Fault Refusal :=
  match s.host.program[s.host.pc]? with
  | none => .next s
  | some l => runLine l (advanceHost s)

/-- R204, R261: the engine's step is taken: it is enabled (BUSY = 1) and its delay has run out (log entry 2). -/
def engineTurn (s : State) : Bool := s.busy && s.delay == 0

/-- A host program whose one line writes `w` to CMD, to be run by the very next step (log entry 1). -/
def loadCommand (w : Word) (s : State) : State :=
  { s with host := { s.host with program := [.write 0x00 4 w], pc := 0 }, delay := s.delay + 1 }

end Sys2Proof.Machine
end

