-- ==== Sys2Proof/Machine/Step.lean ====
section
/-! DEFINITION. One step of the machine: the engine's completion or one host turn (20_memory.md R80). -/

namespace Sys2Proof.Machine

/-- R80, R204: one step in the total order of accesses and completions. -/
def step (s : State) : Host.Outcome State Fault Refusal :=
  if engineTurn s then engineStep s else hostTurn (tick s)

/-- The state whose next step is the CMD write of the table word `w` (log entry 1). Every command has 32 bits (R105). -/
def State.withFetchWord (s : State) (_nbits w : Nat) : State := loadCommand (BitVec.ofNat 32 w) s

end Sys2Proof.Machine
end

