-- ==== Sys2Proof/Machine/Reference.lean ====
section
/-! DEFINITION. The reference function SHA256 of a message (41_compression.md R167). The machine does not use it: statements compare the machine with it. -/

namespace Sys2Proof.Machine

/-- R167: the j-th 64-byte block of a message. -/
def messageBlock (m : List Byte) (j : Nat) : List Byte := (m.drop (64 * j)).take 64

/-- R167: H after the first q full blocks of a message. -/
def chain (m : List Byte) (q : Nat) : HashState := absorb initialValue ((List.range q).map (messageBlock m))

/-- R167: the final state of a message: its full blocks, then the padded tail. -/
def sha256State (m : List Byte) : HashState :=
  absorb (chain m (m.length / 64)) (pad (m.drop (64 * (m.length / 64))) m.length)

/-- R167: SHA256(m), 32 bytes. -/
def sha256 (m : List Byte) : List Byte := digestBytes (sha256State m)

end Sys2Proof.Machine
end

