-- ==== Sys2Proof/Machine/Assembler.lean ====
section
/-! DEFINITION. Host programs in the spec's syntax: the pseudo-instructions and their expansions (30_encoding.md R106, R107). -/

namespace Sys2Proof.Machine

/-- R107: the pseudo-instructions. -/
inductive Pseudo where
  | nop
  | init
  | block
  | final (n : Nat)
  | clrerr
  | loadw (i : Nat) (v : Word)
  | loadb (j : Nat) (b : Byte)
  | loadbytes (bs : List Byte)
  | wait
  | readdig
  deriving DecidableEq, Repr

/-- R106: `WR32 off, v`. -/
def wr32 (off : Nat) (v : Word) : HostLine := .write off 4 v

/-- R106: `WR8 off, v`. -/
def wr8 (off : Nat) (v : Byte) : HostLine := .write off 1 (v.setWidth 32)

/-- R106: `RD32 off`. -/
def rd32 (off : Nat) : HostLine := .read off 4

/-- R106: `RD8 off`. -/
def rd8 (off : Nat) : HostLine := .read off 1

/-- R107: the lines a pseudo-instruction stands for, placed at line number `pos` (WAIT's label is that line). -/
def Pseudo.expand (pos : Nat) : Pseudo → List HostLine
  | .nop => [wr32 0x00 0x00000000]
  | .init => [wr32 0x00 0x00000001]
  | .block => [wr32 0x00 0x00000002]
  | .final n => [wr32 0x00 (0x00000003 + BitVec.ofNat 32 n <<< 8)]
  | .clrerr => [wr32 0x00 0x00000004]
  | .loadw i v => [wr32 (0x40 + 4 * i) v]
  | .loadb j b => [wr8 (0x40 + j) b]
  | .loadbytes bs => bs.mapIdx fun j b => wr8 (0x40 + j) b
  | .wait => [rd32 0x04, .busyLoop pos]
  | .readdig => (List.range 8).map fun i => rd32 (0x80 + 4 * i)

/-- R106, R107: a program, each pseudo-instruction after the one before it. -/
def assemble (ps : List Pseudo) : List HostLine :=
  ps.foldl (fun lines p => lines ++ p.expand lines.length) []

end Sys2Proof.Machine
end

