-- ==== Sys2Proof/WellFormed.lean ====
section
/-! DEFINITION. What an assembler accepts (30_encoding.md R107) and what a host line may address (20_memory.md R60). Every term of Instr is well-formed: FINAL's operand is its 6-bit field. -/

namespace Sys2Proof.Machine

/-- R107: "An assembler rejects FINAL n with n > 63, LOADW with i > 15 and LOADB with j > 63", and LOADBYTES takes at most 64 bytes. -/
def Pseudo.wf : Pseudo → Bool
  | .final n => n ≤ 63
  | .loadw i _ => i ≤ 15
  | .loadb j _ => j ≤ 63
  | .loadbytes bs => bs.length ≤ 64
  | .nop | .init | .block | .clrerr | .wait | .readdig => true

/-- R60: the line's access lies in the register space 0x00..0xFF. -/
def HostLine.wf : HostLine → Bool
  | .write off _ _ => off ≤ 0xFF
  | .read off _ => off ≤ 0xFF
  | .busyLoop _ => true
  | .assertReset => true

end Sys2Proof.Machine
end

