-- ==== Sys2Proof/Safety.lean ====
section
/-! DEFINITION. The terms in which claims are made: the block's invariant (10_state.md R31) and what state stands for which message. -/

namespace Sys2Proof.Machine

/-- R29, R31.1: BUSY, PEND and MODE agree. -/
abbrev busyConsistent (s : State) : Prop :=
  (s.busy = true → s.mode = .opened ∧ s.pend ≠ none) ∧ (s.busy = false → s.pend = none)

/-- R31.2 to R31.4, R200: COUNT's bounds; a pending BLOCK has been checked against the limit (R195). -/
abbrev countConsistent (s : State) : Prop :=
  (s.mode = .opened → s.count.toNat % 64 = 0 ∧ s.count.toNat ≤ 2 ^ 61 - 64) ∧
  (s.mode = .idle → s.count = 0 ∧ s.hash = initialValue) ∧
  s.count.toNat ≤ 2 ^ 61 - 1 ∧
  (s.pend = some .block → s.count.toNat + 64 ≤ 2 ^ 61 - 1)

/-- R30, R220, I13: the error record: no code and no overflow without ERR; with ERR one of the codes 1 to 5. -/
abbrev errorConsistent (s : State) : Prop :=
  (s.err = false → s.errcode = 0 ∧ s.errovf = false) ∧
  (s.err = true → 1 ≤ s.errcode.toNat ∧ s.errcode.toNat ≤ 5)

/-- What holds in every reachable state (R31), with BLK in its canonical form. -/
structure State.Inv (s : State) : Prop where
  busyOk : busyConsistent s
  countOk : countConsistent s
  errorOk : errorConsistent s
  blkOk : s.blk.wf

/-- R205: an open, idle block that has absorbed exactly the message prefix `m`, a whole number of blocks. -/
structure State.Absorbed (s : State) (m : List Byte) : Prop where
  openMode : s.mode = .opened
  ready : s.busy = false
  whole : m.length % 64 = 0
  counted : s.count.toNat = m.length
  hashed : s.hash = chain m (m.length / 64)

/-- R207: a host program whose every access lies in the register space. -/
def HostAgent.wf (h : HostAgent) : Prop := ∀ l ∈ h.program, l.wf = true

end Sys2Proof.Machine
end

