-- ==== Sys2Proof/Certificates/Slice0/Obligations.lean ====
section
/-! DEFINITION. The statements about the model, each from numbered rules of spec/. -/

open Sys2Proof Sys2Proof.Machine

/-! ## Encoding (30_encoding.md) -/

/-- R102, R104 and the vectors of 95_test_vectors.md section 6: words written out from the opcode map decode to
their commands, and words with a reserved OP or a reserved bit to none. -/
def Obligations.DecodeReadsSpecWords : Prop :=
  decode 0x00000000 = .ok .nop ∧ decode 0x00000001 = .ok .init ∧ decode 0x00000002 = .ok .block ∧
  decode 0x00000003 = .ok (.final 0) ∧ decode 0x00000303 = .ok (.final 3) ∧
  decode 0x00003F03 = .ok (.final 63) ∧ decode 0x00000004 = .ok .clrerr ∧
  decode 0x00000005 = .error (.reservedOp 0x5) ∧ decode 0x0000000F = .error (.reservedOp 0xF) ∧
  decode 0x00000010 = .error .reservedBits ∧ decode 0x80000001 = .error .reservedBits ∧
  decode 0x00000013 = .error .reservedBits ∧ decode 0x00004003 = .error .reservedBits ∧
  decode 0x00000102 = .error .reservedBits

/-- R100 to R105: a word decodes to a command exactly if it is that command's word, with every operand. -/
def Obligations.DecodeInvertsEncode : Prop :=
  ∀ (c : Word) (i : Instr), decode c = .ok i ↔ c = encode i

/-- R103: the legality predicate, written on numbers, holds of exactly the words that decode. -/
def Obligations.LegalWordsAreTheDecodedOnes : Prop :=
  ∀ c : Word,
    (legal c = true ↔
      ((c.toNat % 16 = 0 ∨ c.toNat % 16 = 1 ∨ c.toNat % 16 = 2 ∨ c.toNat % 16 = 4) ∧ c.toNat / 16 = 0) ∨
      (c.toNat % 16 = 3 ∧ c.toNat / 16 % 16 = 0 ∧ c.toNat / 2 ^ 14 = 0)) ∧
    (legal c = true ↔ ∃ i, decode c = .ok i)

/-- R102: the masks and patterns of the opcode map select the commands; FINAL's N is bits [13:8] (R101). -/
def Obligations.OpcodeMapSelectsCommands : Prop :=
  ∀ c : Word,
    (c &&& 0xFFFFFFFF = 0x00000000 ↔ decode c = .ok .nop) ∧
    (c &&& 0xFFFFFFFF = 0x00000001 ↔ decode c = .ok .init) ∧
    (c &&& 0xFFFFFFFF = 0x00000002 ↔ decode c = .ok .block) ∧
    (c &&& 0xFFFFC0FF = 0x00000003 ↔ ∃ n, decode c = .ok (.final n)) ∧
    (c &&& 0xFFFFFFFF = 0x00000004 ↔ decode c = .ok .clrerr) ∧
    (∀ n, decode c = .ok (.final n) → n = c.extractLsb' 8 6 ∧ c = 0x00000003 + (n.setWidth 32 <<< 8))

/-- R107: each command's pseudo-instruction expands to one CMD write of the command's word. -/
def Obligations.PseudoCommandsIssueTheirCommand : Prop :=
  ∀ pos : Nat,
    Pseudo.expand pos .nop = [.write 0x00 4 (encode .nop)] ∧
    Pseudo.expand pos .init = [.write 0x00 4 (encode .init)] ∧
    Pseudo.expand pos .block = [.write 0x00 4 (encode .block)] ∧
    Pseudo.expand pos .clrerr = [.write 0x00 4 (encode .clrerr)] ∧
    ∀ n, (Pseudo.final n).wf = true →
      Pseudo.expand pos (.final n) = [.write 0x00 4 (encode (.final (BitVec.ofNat 6 n)))]

/-! ## Reset (70_reset_and_hazards.md) -/

/-- R250: the machine after reset, and what every register then reads. -/
def Obligations.ResetHoldsSpecValues : Prop :=
  State.reset.hash.words = [0x6a09e667, 0xbb67ae85, 0x3c6ef372, 0xa54ff53a, 0x510e527f, 0x9b05688c, 0x1f83d9ab, 0x5be0cd19] ∧
  State.reset.count = 0 ∧ State.reset.mode = .idle ∧ State.reset.busy = false ∧ State.reset.pend = none ∧
  State.reset.err = false ∧ State.reset.errcode = 0 ∧ State.reset.errovf = false ∧
  (∀ j < 64, blkByte State.reset j = 0) ∧
  hostRead 0x04 4 State.reset = 0 ∧ hostRead 0x08 4 State.reset = 0 ∧ hostRead 0x0C 4 State.reset = 0 ∧
  (∀ j < 64, hostRead (0x40 + j) 1 State.reset = 0) ∧ (∀ j < 32, hostRead (0x80 + j) 1 State.reset = 0)

/-- R250, R251: the reset input, asserted in any state, a busy one included, sets every element of the block. That
reset is a line of the host's program and that the host goes on (`t.host = s.host`) is the model's own choice
(log entry 13). -/
def Obligations.ResetInputRestoresTheBlock : Prop :=
  ∀ s : State, ∃ t, runLine .assertReset s = .next t ∧
    t.hash.words = [0x6a09e667, 0xbb67ae85, 0x3c6ef372, 0xa54ff53a, 0x510e527f, 0x9b05688c, 0x1f83d9ab, 0x5be0cd19] ∧
    t.count = 0 ∧ t.mode = .idle ∧ t.busy = false ∧ t.pend = none ∧
    t.err = false ∧ t.errcode = 0 ∧ t.errovf = false ∧ (∀ j < 64, blkByte t j = 0) ∧ t.host = s.host ∧
    hostRead 0x04 4 t = 0 ∧ hostRead 0x08 4 t = 0 ∧ hostRead 0x0C 4 t = 0 ∧
    (∀ j < 64, hostRead (0x40 + j) 1 t = 0) ∧ (∀ j < 32, hostRead (0x80 + j) 1 t = 0)

/-- R255: INIT followed by CLRERR, issued while BUSY = 0, is reset but for BLK and for MODE, which becomes OPEN; no
command returns MODE to IDLE. -/
def Obligations.InitThenClrerrIsResetButOpen : Prop :=
  ∀ s : State, s.busy = false → ∃ t u, exec .init s = .next t ∧ exec .clrerr t = .next u ∧
    u.mode = .opened ∧ u.hash = State.reset.hash ∧ u.count = State.reset.count ∧ u.busy = State.reset.busy ∧
    u.err = State.reset.err ∧ u.errcode = State.reset.errcode ∧ u.errovf = State.reset.errovf ∧ u.blk = s.blk ∧
    ∀ i v, s.mode ≠ .idle → exec i s = .next v → v.mode ≠ .idle

/-! ## The error record (60_exceptions.md) -/

/-- R224: the first error sets ERR and its code; a further one only sets ERROVF; nothing else changes. -/
def Obligations.RecordErrorKeepsTheFirst : Prop :=
  ∀ (e : ErrorCode) (s : State),
    (s.err = false → recordError e s = { s with err := true, errcode := e.code }) ∧
    (s.err = true → recordError e s = { s with errovf := true })

/-- R221: a 4-byte CMD write of an illegal word while BUSY = 0 records ILLEGAL_CMD (code 1) and has no other effect. -/
def Obligations.IllegalWordRecordsIllegalCmd : Prop :=
  ErrorCode.illegalCmd.code = 1 ∧
  ∀ (c : Word) (s : State), s.busy = false → legal c = false →
    hostWrite 0x00 4 c s = .next (recordError .illegalCmd s)

/-- R222: BLOCK and FINAL outside MODE = OPEN record BAD_SEQUENCE (code 2) and have no other effect; INIT, NOP and
CLRERR record no error. -/
def Obligations.AbsorbingNeedsAnOpenMessage : Prop :=
  ErrorCode.badSequence.code = 2 ∧
  ∀ s : State, s.busy = false → s.mode ≠ .opened →
    exec .block s = .next (recordError .badSequence s) ∧
    (∀ n, exec (.final n) s = .next (recordError .badSequence s)) ∧
    ∀ i t, i = .init ∨ i = .nop ∨ i = .clrerr → exec i s = .next t →
      t.err = true → s.err = true ∧ t.errcode = s.errcode ∧ t.errovf = s.errovf

/-- R223: a BLOCK that would take COUNT past 2^61 - 1 records LENGTH_OVERFLOW (code 3); the message stays open. -/
def Obligations.BlockPastTheLimitIsRejected : Prop :=
  ErrorCode.lengthOverflow.code = 3 ∧
  ∀ s : State, s.busy = false → s.mode = .opened → s.count.toNat + 64 > 2 ^ 61 - 1 →
    exec .block s = .next (recordError .lengthOverflow s) ∧
    (recordError .lengthOverflow s).mode = .opened

/-- R225, R77: while BUSY = 1 a CMD write of any word and a BLK write of either width record BUSY_VIOLATION
(code 4); the write is dropped and the pending command keeps everything it works on. -/
def Obligations.BusyRejectsCmdAndBlkWrites : Prop :=
  ErrorCode.busyViolation.code = 4 ∧
  ∀ s : State, s.busy = true →
    (∀ c, hostWrite 0x00 4 c s = .next (recordError .busyViolation s)) ∧
    (∀ off v, off % 4 = 0 → 0x40 ≤ off → off ≤ 0x7C → hostWrite off 4 v s = .next (recordError .busyViolation s)) ∧
    (∀ off v, 0x40 ≤ off → off ≤ 0x7F → hostWrite off 1 v s = .next (recordError .busyViolation s)) ∧
    (let t := recordError .busyViolation s
     t.busy = true ∧ t.pend = s.pend ∧ t.blk = s.blk ∧ t.hash = s.hash ∧ t.count = s.count ∧ t.mode = s.mode)

/-- R226: every write that is neither a 4-byte write to CMD nor a well-formed write to BLK records BAD_ACCESS
(code 5), whatever BUSY is. -/
def Obligations.OtherWritesRecordBadAccess : Prop :=
  ErrorCode.badAccess.code = 5 ∧
  ∀ (off width : Nat) (v : Word) (s : State),
    ¬(width = 4 ∧ off = 0x00) → ¬(width = 4 ∧ off % 4 = 0 ∧ 0x40 ≤ off ∧ off ≤ 0x7C) →
    ¬(width = 1 ∧ 0x40 ≤ off ∧ off ≤ 0x7F) →
    hostWrite off width v s = .next (recordError .badAccess s)

/-- R227: one write records at most one error, the first of BAD_ACCESS, BUSY_VIOLATION, ILLEGAL_CMD, BAD_SEQUENCE
and LENGTH_OVERFLOW that applies. -/
def Obligations.WriteErrorsHaveOnePriority : Prop :=
  ∀ (off width : Nat) (v : Word) (s : State),
    let toCmd := width = 4 ∧ off = 0x00
    let toBlk := (width = 4 ∧ off % 4 = 0 ∧ 0x40 ≤ off ∧ off ≤ 0x7C) ∨ (width = 1 ∧ 0x40 ≤ off ∧ off ≤ 0x7F)
    let absorbs := v = 0x00000002 ∨ v &&& 0xFFFFC0FF = 0x00000003
    if ¬toCmd ∧ ¬toBlk then hostWrite off width v s = .next (recordError .badAccess s)
    else if s.busy = true then hostWrite off width v s = .next (recordError .busyViolation s)
    else if toCmd ∧ legal v = false then hostWrite off width v s = .next (recordError .illegalCmd s)
    else if toCmd ∧ absorbs ∧ s.mode ≠ .opened then hostWrite off width v s = .next (recordError .badSequence s)
    else if toCmd ∧ v = 0x00000002 ∧ s.count.toNat + 64 > 2 ^ 61 - 1 then
      hostWrite off width v s = .next (recordError .lengthOverflow s)
    else (s.mode = .opened → s.count.toNat ≤ 2 ^ 61 - 64) → ∃ t, hostWrite off width v s = .next t ∧
      (v ≠ 0x00000004 ∨ ¬toCmd → t.err = s.err ∧ t.errcode = s.errcode ∧ t.errovf = s.errovf)

/-! ## Commands (42_commands.md) -/

/-- R192: NOP changes nothing, in every MODE; while busy it is rejected. -/
def Obligations.NopChangesNothing : Prop :=
  ∀ s : State, (s.busy = false → exec .nop s = .next s) ∧
    (s.busy = true → exec .nop s = .next (recordError .busyViolation s))

/-- R193: INIT, in every MODE, loads H with the IV, clears COUNT and opens the message; nothing else changes. -/
def Obligations.InitOpensAMessage : Prop :=
  ∀ s : State,
    (s.busy = false → exec .init s = .next { s with hash := initialValue, count := 0, mode := .opened }) ∧
    (s.busy = true → exec .init s = .next (recordError .busyViolation s))

/-- R195: BLOCK is accepted in MODE = OPEN within the limit: BUSY and PEND are set; the latency (`delay`, with the
count of draws) is open; nothing else changes. -/
def Obligations.BlockIsAccepted : Prop :=
  ∀ s : State, s.busy = false → s.mode = .opened → s.count.toNat + 64 ≤ 2 ^ 61 - 1 →
    ∃ d k, exec .block s = .next { s with busy := true, pend := some .block, delay := d, draws := k }

/-- R198: FINAL n is accepted in MODE = OPEN within the limit, for each of the 64 values of n. -/
def Obligations.FinalIsAccepted : Prop :=
  ∀ (n : BitVec 6) (s : State), s.busy = false → s.mode = .opened → s.count.toNat + n.toNat ≤ 2 ^ 61 - 1 →
    ∃ d k, exec (.final n) s = .next { s with busy := true, pend := some (.final n), delay := d, draws := k }

/-- R200: in every state that meets the invariant, an open idle block accepts FINAL with every n: FINAL never
records LENGTH_OVERFLOW. -/
def Obligations.FinalNeverOverflows : Prop :=
  ∀ (n : BitVec 6) (s : State), s.Inv → s.busy = false → s.mode = .opened →
    s.count.toNat + n.toNat ≤ 2 ^ 61 - 1 ∧
    ∃ d k, exec (.final n) s = .next { s with busy := true, pend := some (.final n), delay := d, draws := k }

/-- R203: CLRERR clears the error record and nothing else; while busy it is rejected and the record kept. -/
def Obligations.ClrerrClearsTheRecord : Prop :=
  ∀ s : State,
    (s.busy = false → exec .clrerr s = .next { s with err := false, errcode := 0, errovf := false }) ∧
    (s.busy = true → exec .clrerr s = .next (recordError .busyViolation s))

/-- R26, R191: the frame of all five commands at their issue: every byte of BLK, the datapath registers and the
host are unchanged; only INIT writes H, COUNT and MODE; only BLOCK and FINAL write BUSY and PEND; and unless the
command is CLRERR, an error record that exists is kept. The latency `delay` is the model's own field (log entry 2). -/
def Obligations.CommandFrame : Prop :=
  ∀ (i : Instr) (s t : State), exec i s = .next t →
    (∀ a, t.blk.read a = s.blk.read a) ∧ t.working = s.working ∧ t.schedule = s.schedule ∧ t.host = s.host ∧
    (i ≠ .init → t.hash = s.hash ∧ t.count = s.count ∧ t.mode = s.mode) ∧
    (i = .nop ∨ i = .init ∨ i = .clrerr → t.busy = s.busy ∧ t.pend = s.pend ∧ t.delay = s.delay) ∧
    (i ≠ .clrerr → s.err = true → t.err = true ∧ t.errcode = s.errcode)

/-- R206: commands run while ERR = 1 exactly as while ERR = 0: the error record has no influence on anything else of
the block. That the two runs also draw the same latency (`delay`, `draws`), because they start with the same count of
draws, is the model's own choice (log entry 2) and no rule of the spec. -/
def Obligations.ErrorRecordBlocksNoCommand : Prop :=
  ∀ (i : Instr) (s t t' : State) (e o : Bool) (c : BitVec 4),
    exec i s = .next t → exec i { s with err := e, errcode := c, errovf := o } = .next t' →
    { t' with err := t.err, errcode := t.errcode, errovf := t.errovf } = t

/-! ## The engine (42_commands.md) -/

/-- R196: the engine's step with PEND = BLOCK. -/
def Obligations.BlockCompletes : Prop :=
  ∀ s : State, s.busy = true → s.delay = 0 → s.pend = some .block →
    ∃ t, step s = .next t ∧ t.hash = compress s.hash (blkBytes s 64) ∧ t.count = s.count + 64 ∧
      t.busy = false ∧ t.pend = none ∧ t.mode = s.mode ∧ t.blk = s.blk ∧
      t.err = s.err ∧ t.errcode = s.errcode ∧ t.errovf = s.errovf ∧ t.host = s.host

/-- R201: the engine's step with PEND = FINAL n. -/
def Obligations.FinalCompletes : Prop :=
  ∀ (n : BitVec 6) (s : State), s.busy = true → s.delay = 0 → s.pend = some (.final n) →
    ∃ t, step s = .next t ∧
      t.hash = (pad (blkBytes s n.toNat) (s.count.toNat + n.toNat)).foldl compress s.hash ∧
      t.count = s.count + n.setWidth 64 ∧ t.mode = .done ∧ t.busy = false ∧ t.pend = none ∧ t.blk = s.blk ∧
      t.err = s.err ∧ t.errcode = s.errcode ∧ t.errovf = s.errovf ∧ t.host = s.host

/-- R199, R201: a FINAL n reads no byte of BLK from the n-th on: whatever those bytes hold, H and COUNT come out the
same; a FINAL 0 reads none. -/
def Obligations.FinalIgnoresBytesBeyondTheTail : Prop :=
  ∀ (n : BitVec 6) (s : State) (m : Memory), (∀ j < n.toNat, blkByte { s with blk := m } j = blkByte s j) →
    (completeFinal n { s with blk := m }).hash = (completeFinal n s).hash ∧
    (completeFinal n { s with blk := m }).count = (completeFinal n s).count

/-- R204, R239: with BUSY = 0 no step of the engine is taken: the host's turn comes, and when the host has made its
last access nothing of the block changes. -/
def Obligations.EngineMovesOnlyWhileBusy : Prop :=
  ∀ s : State, s.busy = false → step s = hostTurn { s with delay := s.delay - 1 } ∧
    (s.host.program[s.host.pc]? = none → step s = .next { s with delay := s.delay - 1 })

/-- R77, R83: while a command stays pending, no step changes what it works on; the step uses up one turn of its
latency. -/
def Obligations.PendingCommandKeepsItsOperands : Prop :=
  ∀ s t : State, s.busy = true → step s = .next t → t.busy = true →
    t.blk = s.blk ∧ t.hash = s.hash ∧ t.count = s.count ∧ t.mode = s.mode ∧ t.pend = s.pend ∧
    t.delay + 1 = s.delay

/-- R261, R251: from any busy state that meets the invariant and whose host stays in the register space, BUSY is 0
after at most `delay` + 1 steps, whether by the completion of the pending command or by a reset that drops it (R251).
The bound, in host turns, is the model's own (log entry 2), and so is reset as a line of the host's program
(log entry 13). -/
def Obligations.BusyEndsByCompletionOrReset : Prop :=
  ∀ s : State, s.Inv → s.host.wf → s.busy = true →
    ∃ k ≤ s.delay + 1, ∃ t, Sys2Proof.core.run k s = .next t ∧ t.busy = false

/-- R261, R204: every accepted command completes unless reset drops it: from any busy state that meets the invariant,
whose host stays in the register space and asserts no reset, the machine comes after exactly `delay` steps to a state
in which the same command is pending on the same H, COUNT and BLK, and the next step is the engine's completion of it.
The number of steps is the model's own (log entry 2), and so is reset as a line of the host's program (log entry 13). -/
def Obligations.PendingCommandCompletesUnlessReset : Prop :=
  ∀ s : State, s.Inv → s.host.wf → (∀ l ∈ s.host.program, l ≠ .assertReset) → s.busy = true →
    ∃ u t, Sys2Proof.core.run s.delay s = .next u ∧
      u.busy = true ∧ u.pend = s.pend ∧ u.hash = s.hash ∧ u.count = s.count ∧ u.blk = s.blk ∧
      engineStep u = .next t ∧ step u = .next t ∧ t.busy = false ∧ t.pend = none

/-! ## The register space (20_memory.md, 10_state.md) -/

/-- R34: the fields of STATUS, how they agree with MODE, and their reset values. -/
def Obligations.StatusRegisterLayout : Prop :=
  hostRead 0x04 4 State.reset = 0 ∧
  ∀ s : State, let v := hostRead 0x04 4 s
    v.getLsbD 0 = s.busy ∧ (v.getLsbD 1 = true ↔ s.mode = .opened) ∧ (v.getLsbD 2 = true ↔ s.mode = .done) ∧
    v.getLsbD 3 = s.err ∧ v.extractLsb' 4 4 = s.errcode ∧ v.getLsbD 8 = s.errovf ∧ v.extractLsb' 9 23 = 0 ∧
    ¬(v.getLsbD 1 = true ∧ v.getLsbD 2 = true) ∧ (v.getLsbD 1 = false ∧ v.getLsbD 2 = false ↔ s.mode = .idle) ∧
    ∀ w, hostWrite 0x04 4 w s = .next (recordError .badAccess s)

/-- R70: what a host read returns at each offset 0x00..0xFF and each width; it is a function of the state alone. That
the value of a 1-byte read is recorded zero-extended to 32 bits is the model's own choice (log entry 8). -/
def Obligations.HostReadReturnsTheRegister : Prop :=
  ∀ (off width : Nat) (s : State),
    (off = 0x00 → hostRead off 4 s = 0) ∧
    (off = 0x04 → (hostRead off 4 s).toNat = s.errovf.toNat * 2 ^ 8 + s.errcode.toNat * 2 ^ 4 + s.err.toNat * 2 ^ 3 +
      (decide (s.mode = .done)).toNat * 2 ^ 2 + (decide (s.mode = .opened)).toNat * 2 + s.busy.toNat) ∧
    (off = 0x08 → (hostRead off 4 s).toNat = s.count.toNat % 2 ^ 32) ∧
    (off = 0x0C → (hostRead off 4 s).toNat = s.count.toNat / 2 ^ 32) ∧
    (off % 4 = 0 → 0x40 ≤ off → off ≤ 0x7C → hostRead off 4 s =
      be32 (blkByte s (off - 0x40)) (blkByte s (off - 0x3F)) (blkByte s (off - 0x3E)) (blkByte s (off - 0x3D))) ∧
    (0x40 ≤ off → off ≤ 0x7F → hostRead off 1 s = (blkByte s (off - 0x40)).setWidth 32) ∧
    (off % 4 = 0 → 0x80 ≤ off → off ≤ 0x9C → hostRead off 4 s =
      if s.mode = .done then s.hash.words.getD ((off - 0x80) / 4) 0 else 0) ∧
    (0x80 ≤ off → off ≤ 0x9F → hostRead off 1 s =
      if s.mode = .done then ((digestBytes s.hash).getD (off - 0x80) 0).setWidth 32 else 0) ∧
    (0x10 ≤ off ∧ off ≤ 0x3F ∨ 0xA0 ≤ off ∧ off ≤ 0xFF → hostRead off width s = 0) ∧
    (width = 1 → off < 0x40 → hostRead off width s = 0) ∧
    (width = 4 → off % 4 ≠ 0 → hostRead off width s = 0) ∧
    (width ≠ 1 → width ≠ 4 → hostRead off width s = 0)

/-- R38, R166: the DIGEST window: H[i] and D[j] in MODE = DONE, 0 in every other mode; writes are BAD_ACCESS. -/
def Obligations.DigestWindowShowsOnlyFinishedHashes : Prop :=
  ∀ s : State,
    (s.mode = .done → ∀ i < 8, hostRead (0x80 + 4 * i) 4 s = s.hash.words.getD i 0) ∧
    (s.mode = .done → ∀ i < 8, ∀ k < 4, hostRead (0x80 + 4 * i + k) 1 s =
      ((s.hash.words.getD i 0).extractLsb' (24 - 8 * k) 8).setWidth 32) ∧
    (s.mode ≠ .done → ∀ off width, 0x80 ≤ off → off ≤ 0x9F → hostRead off width s = 0) ∧
    (∀ off width v, 0x80 ≤ off → off ≤ 0x9F → hostWrite off width v s = .next (recordError .badAccess s))

/-- R63: the byte at offset o + k of the BLK and DIGEST windows is bits [31-8k : 24-8k] of the Word at o. -/
def Obligations.ByteLanesAreBigEndian : Prop :=
  ∀ (s : State) (o k : Nat), o % 4 = 0 → k < 4 → (0x40 ≤ o ∧ o ≤ 0x7C ∨ 0x80 ≤ o ∧ o ≤ 0x9C) →
    hostRead (o + k) 1 s = ((hostRead o 4 s).extractLsb' (24 - 8 * k) 8).setWidth 32

/-- R37, R73: a 4-byte BLK write while BUSY = 0, in every MODE, stores the value big-endian, reads back, and changes
only the four bytes addressed. -/
def Obligations.BlkWordWriteReadsBack : Prop :=
  ∀ (s : State) (o : Nat) (v : Word), s.blk.wf → s.busy = false → o % 4 = 0 → 0x40 ≤ o → o ≤ 0x7C →
    ∃ t, hostWrite o 4 v s = .next t ∧ t = { s with blk := t.blk } ∧ hostRead o 4 t = v ∧
      (∀ k < 4, hostRead (o + k) 1 t = (v.extractLsb' (24 - 8 * k) 8).setWidth 32) ∧
      (∀ a, a < o ∨ o + 4 ≤ a → t.blk.read a = s.blk.read a)

/-- R37, R73: a 1-byte BLK write while BUSY = 0, in every MODE, stores its byte, reads back, and changes only the byte
addressed. That the byte is the low byte of a 32-bit bus value, and is read back zero-extended, is the model's own
choice (log entry 8). -/
def Obligations.BlkByteWriteReadsBack : Prop :=
  ∀ (s : State) (o : Nat) (v : Word), s.blk.wf → s.busy = false → 0x40 ≤ o → o ≤ 0x7F →
    ∃ t, hostWrite o 1 v s = .next t ∧ t = { s with blk := t.blk } ∧
      (hostRead o 1 t).toNat = v.toNat % 256 ∧ (∀ a, a ≠ o → t.blk.read a = s.blk.read a)

/-- R67: a host read changes no state of the block. What does move is the model's own: the host's position and its
record of the values read (log entry 1), the 32-bit form in which a value is recorded (log entry 8), and the turn count
`delay` of the busy period (log entry 2). -/
def Obligations.HostReadsHaveNoSideEffects : Prop :=
  ∀ (s : State) (off width : Nat), engineTurn s = false → s.host.program[s.host.pc]? = some (.read off width) →
    off ≤ 0xFF →
    step s = .next { s with
      delay := s.delay - 1
      host := { s.host with pc := s.host.pc + 1, reads := hostRead off width s :: s.host.reads } }

/-- R60, R61: exactly the platform addresses BASE to BASE + 0xFF belong to the register space, for every BASE. -/
def Obligations.PlatformAddressesSelectOffsets : Prop :=
  ∀ addr off : Nat, busOffset addr = some off ↔ off ≤ 0xFF ∧ addr = Config.base + off

/-! ## The datapath (40_primitives.md, 41_compression.md) -/

/-- R121, R122: the shifts, bit by bit and as numbers. -/
def Obligations.ShiftsFillWithZeros : Prop :=
  ∀ (x : Word) (n : Nat), n ≤ 31 →
    (shr x n).toNat = x.toNat / 2 ^ n ∧ (shl x n).toNat = x.toNat * 2 ^ n % 2 ^ 32 ∧
    ∀ i < 32, (shr x n).getLsbD i = (decide (i + n ≤ 31) && x.getLsbD (i + n)) ∧
      (shl x n).getLsbD i = (decide (n ≤ i) && x.getLsbD (i - n))

/-- R123, R124: the rotations, bit by bit, and that a left rotation is a right rotation. -/
def Obligations.RotationsMoveEveryBit : Prop :=
  ∀ (x : Word) (n : Nat), 1 ≤ n → n ≤ 31 →
    (∀ i < 32, (rotr x n).getLsbD i = x.getLsbD ((i + n) % 32)) ∧
    (∀ i < 32, (rotl x n).getLsbD i = x.getLsbD ((i + 32 - n) % 32)) ∧
    rotl x n = rotr x (32 - n)

/-- R127 to R130: the four sigma functions, bit by bit. -/
def Obligations.SigmaFunctionsBitwise : Prop :=
  ∀ (x : Word) (i : Nat), i < 32 →
    (sigma0 x).getLsbD i = (x.getLsbD ((i + 7) % 32) ^^ x.getLsbD ((i + 18) % 32) ^^ x.getLsbD (i + 3)) ∧
    (sigma1 x).getLsbD i = (x.getLsbD ((i + 17) % 32) ^^ x.getLsbD ((i + 19) % 32) ^^ x.getLsbD (i + 10)) ∧
    (bigSigma0 x).getLsbD i =
      (x.getLsbD ((i + 2) % 32) ^^ x.getLsbD ((i + 13) % 32) ^^ x.getLsbD ((i + 22) % 32)) ∧
    (bigSigma1 x).getLsbD i =
      (x.getLsbD ((i + 6) % 32) ^^ x.getLsbD ((i + 11) % 32) ^^ x.getLsbD ((i + 25) % 32))

/-- R131, R132: Ch selects y or z by x; Maj is the value held by at least two operands and does not depend on their
order. -/
def Obligations.ChoiceAndMajorityBitwise : Prop :=
  ∀ x y z : Word,
    (∀ i < 32, (choice x y z).getLsbD i = if x.getLsbD i then y.getLsbD i else z.getLsbD i) ∧
    (∀ i < 32, (majority x y z).getLsbD i = true ↔
      2 ≤ (x.getLsbD i).toNat + (y.getLsbD i).toNat + (z.getLsbD i).toNat) ∧
    majority x y z = majority y x z ∧ majority x y z = majority x z y

/-- R153 to R155: the schedule of a 64-byte block: 64 Words, the first 16 the big-endian message Words, each later
one the recurrence on the Words before it. -/
def Obligations.ScheduleFollowsTheRecurrence : Prop :=
  ∀ block : List Byte, block.length = 64 →
    let w := fun t => (schedule block).getD t 0
    let b := fun j => (block.getD j 0).toNat
    (schedule block).length = 64 ∧
    (∀ t < 16, (w t).toNat = b (4 * t) * 2 ^ 24 + b (4 * t + 1) * 2 ^ 16 + b (4 * t + 2) * 2 ^ 8 + b (4 * t + 3)) ∧
    (∀ t, 16 ≤ t → t < 64 → w t = sigma1 (w (t - 2)) + w (t - 7) + sigma0 (w (t - 15)) + w (t - 16))

/-- R158: the source's sequence of assignments, each reading the registers the ones before it left, equals the
simultaneous update of a round. -/
def Obligations.RoundSequenceIsSimultaneous : Prop :=
  ∀ (k w : Word) (r : Working),
    let t0 := w + k + bigSigma1 r.e + choice r.e r.f r.g + r.h
    let t1 := bigSigma0 r.a + majority r.a r.b r.c
    let r1 := { r with h := r.g }
    let r2 := { r1 with g := r1.f }
    let r3 := { r2 with f := r2.e }
    let r4 := { r3 with e := r3.d + t0 }
    let r5 := { r4 with d := r4.c }
    let r6 := { r5 with c := r5.b }
    let r7 := { r6 with b := r6.a }
    roundStep k w r = { r7 with a := t0 + t1 }

/-- R163: a compression is 64 rounds from copies of H, in order, then the feed-forward addition. -/
def Obligations.CompressRunsSixtyFourRounds : Prop :=
  ∀ (s : HashState) (block : List Byte), ∃ r : List Working, r.length = 65 ∧
    r[0]? = some ⟨s.h0, s.h1, s.h2, s.h3, s.h4, s.h5, s.h6, s.h7⟩ ∧
    (∀ t < 64, r[t + 1]? = r[t]?.map (roundStep (roundConstant t) ((schedule block).getD t 0))) ∧
    r[64]?.map (fun v => ⟨s.h0 + v.a, s.h1 + v.b, s.h2 + v.c, s.h3 + v.d, s.h4 + v.e, s.h5 + v.f, s.h6 + v.g,
      s.h7 + v.h⟩) = some (compress s block)

/-- R164, R165: the padded tail: one or two blocks of 64 bytes; the tail, 0x80, zeros, and in the last eight bytes
the bit length, most significant byte first. -/
def Obligations.PaddingLayout : Prop :=
  ∀ (tail : List Byte) (L : Nat), tail.length ≤ 63 → L ≤ 2 ^ 61 - 1 →
    let k := if tail.length ≤ 55 then 1 else 2
    let p := (pad tail L).flatten
    (pad tail L).length = k ∧ (∀ b ∈ pad tail L, b.length = 64) ∧ p.length = 64 * k ∧
    (∀ i < tail.length, p.getD i 0 = tail.getD i 0) ∧ p.getD tail.length 0 = 0x80 ∧
    (∀ i, tail.length < i → i < 64 * k - 8 → p.getD i 0 = 0) ∧
    (∀ j < 8, (p.getD (64 * k - 8 + j) 0).toNat = 8 * L / 2 ^ (8 * (7 - j)) % 256)

/-- R168: how many blocks a message of L bytes is compressed in, and that its digest has 32 bytes. -/
def Obligations.MessageBlockCount : Prop :=
  ∀ m : List Byte,
    let q := m.length / 64
    let n := q + (pad (m.drop (64 * q)) m.length).length
    n = (if m.length % 64 ≤ 55 then q + 1 else q + 2) ∧ (sha256 m).length = 32 ∧
    (List.flatten ((List.range q).map (messageBlock m) ++ pad (m.drop (64 * q)) m.length)).length = 64 * n

/-- R166: D[4i + k] is byte k of H[i], most significant first. -/
def Obligations.DigestIsBigEndian : Prop :=
  ∀ s : HashState, (digestBytes s).length = 32 ∧
    ∀ i < 8, ∀ k < 4,
      ((digestBytes s).getD (4 * i + k) 0).toNat = (s.words.getD i 0).toNat / 2 ^ (24 - 8 * k) % 256

/-- R150: the round-constant ROM holds the 64 Words of the spec's table, and each is the first 32 bits of the
fractional part of the cube root of its prime: `K[t] = floor(cbrt(p_t) × 2^32) mod 2^32`, p_t the (t+1)-th prime. -/
def Obligations.RoundConstantRomContent : Prop :=
  roundConstants =
    [0x428a2f98, 0x71374491, 0xb5c0fbcf, 0xe9b5dba5, 0x3956c25b, 0x59f111f1, 0x923f82a4, 0xab1c5ed5] ++
    [0xd807aa98, 0x12835b01, 0x243185be, 0x550c7dc3, 0x72be5d74, 0x80deb1fe, 0x9bdc06a7, 0xc19bf174] ++
    [0xe49b69c1, 0xefbe4786, 0x0fc19dc6, 0x240ca1cc, 0x2de92c6f, 0x4a7484aa, 0x5cb0a9dc, 0x76f988da] ++
    [0x983e5152, 0xa831c66d, 0xb00327c8, 0xbf597fc7, 0xc6e00bf3, 0xd5a79147, 0x06ca6351, 0x14292967] ++
    [0x27b70a85, 0x2e1b2138, 0x4d2c6dfc, 0x53380d13, 0x650a7354, 0x766a0abb, 0x81c2c92e, 0x92722c85] ++
    [0xa2bfe8a1, 0xa81a664b, 0xc24b8b70, 0xc76c51a3, 0xd192e819, 0xd6990624, 0xf40e3585, 0x106aa070] ++
    [0x19a4c116, 0x1e376c08, 0x2748774c, 0x34b0bcb5, 0x391c0cb3, 0x4ed8aa4a, 0x5b9cca4f, 0x682e6ff3] ++
    [0x748f82ee, 0x78a5636f, 0x84c87814, 0x8cc70208, 0x90befffa, 0xa4506ceb, 0xbef9a3f7, 0xc67178f2] ∧
  ∀ t < 64, roundConstants[t]? = some (roundConstant t) ∧
    ∃ p x : Nat, p.Prime ∧ Nat.count Nat.Prime p = t ∧ x ^ 3 ≤ p * 2 ^ 96 ∧ p * 2 ^ 96 < (x + 1) ^ 3 ∧
      (roundConstant t).toNat = x % 2 ^ 32

/-! ## The machine -/

/-- R80, R190: when the host's next line writes a word to CMD that decodes to a command and the engine's step is not
due, the step is that command's meaning, with the host moved on by one line and one turn of the busy period gone. -/
def Obligations.StepRunsTheDecodedCommand : Prop :=
  ∀ (s : State) (c : Word) (i : Instr), engineTurn s = false →
    s.host.program[s.host.pc]? = some (.write 0x00 4 c) → decode c = .ok i →
    step s = exec i { s with delay := s.delay - 1, host := { s.host with pc := s.host.pc + 1 } }

/-- The model's own (log entry 1): a table word placed for the next step is what that step runs. -/
def Obligations.FetchedWordRunsNext : Prop :=
  ∀ (s : State) (w : Nat) (i : Instr), decodeTableWord 32 w = some i →
    step (s.withFetchWord 32 w) =
      exec i { s with host := { s.host with program := [.write 0x00 4 (BitVec.ofNat 32 w)], pc := 1 } }

/-- R28: MODE becomes OPEN by INIT only, DONE by the completion of a FINAL in OPEN only, IDLE by reset only. -/
def Obligations.OnlyTheseEventsChangeMode : Prop :=
  ∀ s t : State, s.Inv → step s = .next t → t.mode ≠ s.mode →
    (s.host.program[s.host.pc]? = some (.write 0x00 4 0x00000001) ∧ s.busy = false ∧ t.mode = .opened) ∨
    ((∃ n, s.pend = some (.final n)) ∧ s.busy = true ∧ s.mode = .opened ∧ t.mode = .done) ∨
    (s.host.program[s.host.pc]? = some .assertReset ∧ t.mode = .idle)

/-- R22, R36: H and COUNT change only by INIT, by a completion of the engine, or by reset. -/
def Obligations.OnlyTheseEventsWriteHashOrCount : Prop :=
  ∀ s t : State, step s = .next t → t.hash ≠ s.hash ∨ t.count ≠ s.count →
    (s.host.program[s.host.pc]? = some (.write 0x00 4 0x00000001) ∧ s.busy = false) ∨
    (s.busy = true ∧ s.delay = 0 ∧ t.busy = false) ∨
    s.host.program[s.host.pc]? = some .assertReset

/-- R202: in MODE = DONE the digest stays as it is until the next INIT or reset. -/
def Obligations.DigestStaysUntilInitOrReset : Prop :=
  ∀ s t : State, s.Inv → s.mode = .done → step s = .next t →
    (t.mode = .done ∧ t.hash = s.hash) ∨
    s.host.program[s.host.pc]? = some (.write 0x00 4 0x00000001) ∨
    s.host.program[s.host.pc]? = some .assertReset

/-- R31, at reset. -/
def Obligations.InvHoldsAtReset : Prop := State.reset.Inv

/-- R31: every step keeps the invariant: BUSY, PEND and MODE agree; COUNT's bounds hold; IDLE has COUNT = 0 and
H = IV; the error record is sound; BLK keeps its canonical form. -/
def Obligations.StepKeepsInv : Prop :=
  ∀ s t : State, s.Inv → step s = .next t → t.Inv

/-- R205, R167: the commands compute SHA-256. INIT opens the empty message; BLOCK and its completion append the 64
bytes of BLK; FINAL n and its completion append BLK[0..n-1] and leave the digest of the whole message in the DIGEST
window and its length in COUNT. -/
def Obligations.CommandsComputeSha256 : Prop :=
  (∀ s : State, s.busy = false → ∃ t, exec .init s = .next t ∧ t.Absorbed []) ∧
  (∀ (s : State) (m : List Byte), s.Absorbed m → m.length + 64 ≤ 2 ^ 61 - 1 →
    ∃ t u, exec .block s = .next t ∧ engineStep t = .next u ∧ u.Absorbed (m ++ blkBytes s 64)) ∧
  (∀ (s : State) (m : List Byte) (n : BitVec 6), s.Absorbed m → m.length + n.toNat ≤ 2 ^ 61 - 1 →
    ∃ t u, exec (.final n) s = .next t ∧ engineStep t = .next u ∧
      u.mode = .done ∧ u.busy = false ∧ u.count.toNat = (m ++ blkBytes s n.toNat).length ∧
      (∀ j < 32, hostRead (0x80 + j) 1 u = ((sha256 (m ++ blkBytes s n.toNat)).getD j 0).setWidth 32))
end

