-- ==== Sys2Proof/Laws/Memory.lean ====
section
/-! SUPPORT. The BLK memory: a read after a write, and that every write keeps the canonical form. -/

namespace Sys2Proof.Machine

/-- The addresses of a memory rise strictly. -/
abbrev Memory.rising (m : Memory) : Prop := m.Pairwise (fun x y => x.1 < y.1)

theorem Memory.read_below (m : Memory) (a : Nat) (h : ∀ c ∈ m, a < c.1) : Memory.read m a = 0 := by
  induction m with
  | nil => rfl
  | cons x m ih =>
    obtain ⟨k, v⟩ := x
    have hk : a < k := h (k, v) (by simp)
    have ht : Memory.read m a = 0 := ih fun c hc => h c (by simp [hc])
    simp [Memory.read, ht, show k ≠ a by omega]

theorem Memory.read_consCell (m : Memory) (a : Nat) (b : Byte) (a' : Nat) (h : m.read a = 0) :
    (Memory.consCell a b m).read a' = if a' = a then b else m.read a' := by
  unfold Memory.consCell
  split
  · rename_i hb
    subst hb
    split
    · rename_i h'; rw [h', h]
    · rfl
  · by_cases h' : a' = a
    · simp [Memory.read, h']
    · simp [Memory.read, h', Ne.symm h']

/-- Reading after writing one byte: the byte written there, every other byte as before. -/
theorem Memory.read_write (m : Memory) (a : Nat) (b : Byte) (a' : Nat) (h : m.rising) :
    (m.write a b).read a' = if a' = a then b else m.read a' := by
  induction m with
  | nil => exact Memory.read_consCell [] a b a' rfl
  | cons x m ih =>
    obtain ⟨k, v⟩ := x
    obtain ⟨hlt, hm⟩ := List.pairwise_cons.mp h
    unfold Memory.write
    split
    · rename_i hak
      refine Memory.read_consCell _ a b a' (Memory.read_below _ a fun c hc => ?_)
      rcases List.mem_cons.mp hc with rfl | hc
      · exact hak
      · exact Nat.lt_trans hak (hlt c hc)
    · split
      · rename_i _ hak
        subst hak
        rw [Memory.read_consCell _ a b a' (Memory.read_below _ a hlt)]
        by_cases h' : a' = a
        · simp [h']
        · simp [Memory.read, h', Ne.symm h']
      · rename_i _ hak
        simp only [Memory.read, ih hm]
        by_cases h' : k = a'
        · subst h'; simp [Ne.symm hak]
        · simp [h']

theorem Memory.mem_consCell {c : Host.Cell} {a : Nat} {b : Byte} {m : Memory}
    (h : c ∈ Memory.consCell a b m) : c = (a, b) ∧ b ≠ 0 ∨ c ∈ m := by
  unfold Memory.consCell at h
  split at h
  · exact .inr h
  · rename_i hb
    exact (List.mem_cons.mp h).imp (fun h => ⟨h, hb⟩) id

theorem Memory.mem_write {c : Host.Cell} {m : Memory} {a : Nat} {b : Byte}
    (h : c ∈ m.write a b) : c = (a, b) ∧ b ≠ 0 ∨ c ∈ m := by
  induction m with
  | nil => exact Memory.mem_consCell h
  | cons x m ih =>
    obtain ⟨k, v⟩ := x
    unfold Memory.write at h
    split at h
    · exact Memory.mem_consCell h
    · split at h
      · exact (Memory.mem_consCell h).imp id (List.mem_cons_of_mem _)
      · rcases List.mem_cons.mp h with rfl | h
        · exact .inr (by simp)
        · exact (ih h).imp id (List.mem_cons_of_mem _)

theorem Memory.rising_consCell {a : Nat} {b : Byte} {m : Memory} (h : ∀ c ∈ m, a < c.1)
    (hm : m.rising) : (Memory.consCell a b m).rising := by
  unfold Memory.consCell
  split
  · exact hm
  · exact List.pairwise_cons.mpr ⟨h, hm⟩

theorem Memory.rising_write {m : Memory} (a : Nat) (b : Byte) (h : m.rising) :
    (m.write a b).rising := by
  induction m with
  | nil => exact Memory.rising_consCell (by simp) h
  | cons x m ih =>
    obtain ⟨k, v⟩ := x
    obtain ⟨hlt, hm⟩ := List.pairwise_cons.mp h
    unfold Memory.write
    split
    · rename_i hak
      refine Memory.rising_consCell (fun c hc => ?_) h
      rcases List.mem_cons.mp hc with rfl | hc
      · exact hak
      · exact Nat.lt_trans hak (hlt c hc)
    · split
      · rename_i _ hak
        subst hak
        exact Memory.rising_consCell hlt hm
      · refine List.pairwise_cons.mpr ⟨fun c hc => ?_, ih hm⟩
        rcases Memory.mem_write hc with ⟨rfl, -⟩ | hc
        · show k < a
          omega
        · exact hlt c hc

/-- A write inside the BLK window keeps the canonical form. -/
theorem Memory.wf_write {m : Memory} {a : Nat} (b : Byte) (h : m.wf) (lo : 0x40 ≤ a) (hi : a ≤ 0x7F) :
    (m.write a b).wf := by
  refine ⟨Memory.rising_write a b h.1, fun c hc => ?_⟩
  rcases Memory.mem_write hc with ⟨rfl, hb⟩ | hc
  · exact ⟨lo, hi, hb⟩
  · exact h.2 c hc

/-- A store of consecutive bytes inside the BLK window keeps the canonical form. -/
theorem Memory.wf_writeBytes {m : Memory} {a : Nat} (bs : List Byte) (h : m.wf) (lo : 0x40 ≤ a)
    (hi : a + bs.length ≤ 0x80) : (m.writeBytes a bs).wf := by
  induction bs generalizing m a with
  | nil => exact h
  | cons b bs ih =>
    rw [List.length_cons] at hi
    exact ih (Memory.wf_write b h lo (by omega)) (by omega) (by omega)

/-- Reading after storing consecutive bytes: the bytes stored, every other byte as before. -/
theorem Memory.read_writeBytes (m : Memory) (a : Nat) (bs : List Byte) (a' : Nat) (h : m.rising) :
    (m.writeBytes a bs).read a' = if a ≤ a' ∧ a' < a + bs.length then bs.getD (a' - a) 0 else m.read a' := by
  induction bs generalizing m a with
  | nil => simp [Memory.writeBytes, show ¬(a ≤ a' ∧ a' < a) by omega]
  | cons b bs ih =>
    rw [Memory.writeBytes, ih _ _ (Memory.rising_write a b h), Memory.read_write m a b a' h, List.length_cons]
    by_cases h1 : a' = a
    · subst h1
      simp
    · by_cases h2 : a + 1 ≤ a' ∧ a' < a + 1 + bs.length
      · rw [if_pos h2, if_pos (by omega), show a' - a = (a' - (a + 1)) + 1 by omega, List.getD_cons_succ]
      · rw [if_neg h2, if_neg h1, if_neg (by omega)]

/-- The memory after reset is canonical. -/
theorem Memory.wf_reset : State.reset.blk.wf := by decide

end Sys2Proof.Machine
end

