-- ==== Sys2Proof/Laws/Bytes.lean ====
section
/-! SUPPORT. Byte lanes of Words, and what the byte views of the state show after an update. -/

namespace Sys2Proof.Machine

/-- The four lanes of an assembled Word are its bytes, most significant first. -/
theorem laneOf_be32 (b0 b1 b2 b3 : Byte) (k : Nat) (hk : k < 4) :
    laneOf (be32 b0 b1 b2 b3) k = [b0, b1, b2, b3].getD k 0 := by
  apply BitVec.eq_of_getLsbD_eq
  intro i hi
  interval_cases k <;> interval_cases i <;> simp [be32, shl, laneOf]

/-- A Word assembled from its own lanes is that Word. -/
theorem be32_laneOf (v : Word) : be32 (laneOf v 0) (laneOf v 1) (laneOf v 2) (laneOf v 3) = v := by
  apply BitVec.eq_of_getLsbD_eq
  intro i hi
  interval_cases i <;> simp [be32, shl, laneOf]

@[simp] theorem bytesBe32_length (v : Word) : (bytesBe32 v).length = 4 := rfl

@[simp] theorem bytesBe64_length (v : BitVec 64) : (bytesBe64 v).length = 8 := rfl

@[simp] theorem blkBytes_length (s : State) (n : Nat) : (blkBytes s n).length = n := by simp [blkBytes]

/-- Two states with the same BLK have the same operand bytes. -/
theorem blkBytes_congr {s t : State} (n : Nat) (h : t.blk = s.blk) : blkBytes t n = blkBytes s n := by
  simp [blkBytes, blkByte, h]

/-- BLK[j] after a store from host offset `off` up: the byte stored there, else the byte that was there. -/
theorem blkByte_storeBytes (off : Nat) (bs : List Byte) (s : State) (j : Nat) (h : s.blk.rising) :
    blkByte (storeBytes off bs s) j =
      if off ≤ blkBase + j ∧ blkBase + j < off + bs.length then bs.getD (blkBase + j - off) 0 else blkByte s j :=
  Memory.read_writeBytes s.blk off bs (blkBase + j) h

end Sys2Proof.Machine
end

