-- ==== Sys2Proof/Laws/State.lean ====
section
/-! SUPPORT. One lemma per field per update of the state, so that no proof unfolds a record update. -/

namespace Sys2Proof.Machine

@[simp] theorem recordError_hash (e : ErrorCode) (s : State) : (recordError e s).hash = s.hash := by unfold recordError; split <;> simp_all
@[simp] theorem recordError_working (e : ErrorCode) (s : State) : (recordError e s).working = s.working := by unfold recordError; split <;> simp_all
@[simp] theorem recordError_schedule (e : ErrorCode) (s : State) : (recordError e s).schedule = s.schedule := by unfold recordError; split <;> simp_all
@[simp] theorem recordError_blk (e : ErrorCode) (s : State) : (recordError e s).blk = s.blk := by unfold recordError; split <;> simp_all
@[simp] theorem recordError_count (e : ErrorCode) (s : State) : (recordError e s).count = s.count := by unfold recordError; split <;> simp_all
@[simp] theorem recordError_mode (e : ErrorCode) (s : State) : (recordError e s).mode = s.mode := by unfold recordError; split <;> simp_all
@[simp] theorem recordError_busy (e : ErrorCode) (s : State) : (recordError e s).busy = s.busy := by unfold recordError; split <;> simp_all
@[simp] theorem recordError_pend (e : ErrorCode) (s : State) : (recordError e s).pend = s.pend := by unfold recordError; split <;> simp_all
@[simp] theorem recordError_err (e : ErrorCode) (s : State) : (recordError e s).err = true := by unfold recordError; split <;> simp_all
@[simp] theorem recordError_errcode (e : ErrorCode) (s : State) : (recordError e s).errcode = if s.err then s.errcode else e.code := by unfold recordError; split <;> simp_all
@[simp] theorem recordError_errovf (e : ErrorCode) (s : State) : (recordError e s).errovf = s.err || s.errovf := by unfold recordError; split <;> simp_all
@[simp] theorem recordError_delay (e : ErrorCode) (s : State) : (recordError e s).delay = s.delay := by unfold recordError; split <;> simp_all
@[simp] theorem recordError_draws (e : ErrorCode) (s : State) : (recordError e s).draws = s.draws := by unfold recordError; split <;> simp_all
@[simp] theorem recordError_host (e : ErrorCode) (s : State) : (recordError e s).host = s.host := by unfold recordError; split <;> simp_all

@[simp] theorem clearErrors_hash (s : State) : (clearErrors s).hash = s.hash := rfl
@[simp] theorem clearErrors_working (s : State) : (clearErrors s).working = s.working := rfl
@[simp] theorem clearErrors_schedule (s : State) : (clearErrors s).schedule = s.schedule := rfl
@[simp] theorem clearErrors_blk (s : State) : (clearErrors s).blk = s.blk := rfl
@[simp] theorem clearErrors_count (s : State) : (clearErrors s).count = s.count := rfl
@[simp] theorem clearErrors_mode (s : State) : (clearErrors s).mode = s.mode := rfl
@[simp] theorem clearErrors_busy (s : State) : (clearErrors s).busy = s.busy := rfl
@[simp] theorem clearErrors_pend (s : State) : (clearErrors s).pend = s.pend := rfl
@[simp] theorem clearErrors_err (s : State) : (clearErrors s).err = false := rfl
@[simp] theorem clearErrors_errcode (s : State) : (clearErrors s).errcode = 0 := rfl
@[simp] theorem clearErrors_errovf (s : State) : (clearErrors s).errovf = false := rfl
@[simp] theorem clearErrors_delay (s : State) : (clearErrors s).delay = s.delay := rfl
@[simp] theorem clearErrors_draws (s : State) : (clearErrors s).draws = s.draws := rfl
@[simp] theorem clearErrors_host (s : State) : (clearErrors s).host = s.host := rfl

@[simp] theorem startMessage_hash (s : State) : (startMessage s).hash = initialValue := rfl
@[simp] theorem startMessage_working (s : State) : (startMessage s).working = s.working := rfl
@[simp] theorem startMessage_schedule (s : State) : (startMessage s).schedule = s.schedule := rfl
@[simp] theorem startMessage_blk (s : State) : (startMessage s).blk = s.blk := rfl
@[simp] theorem startMessage_count (s : State) : (startMessage s).count = 0 := rfl
@[simp] theorem startMessage_mode (s : State) : (startMessage s).mode = .opened := rfl
@[simp] theorem startMessage_busy (s : State) : (startMessage s).busy = s.busy := rfl
@[simp] theorem startMessage_pend (s : State) : (startMessage s).pend = s.pend := rfl
@[simp] theorem startMessage_err (s : State) : (startMessage s).err = s.err := rfl
@[simp] theorem startMessage_errcode (s : State) : (startMessage s).errcode = s.errcode := rfl
@[simp] theorem startMessage_errovf (s : State) : (startMessage s).errovf = s.errovf := rfl
@[simp] theorem startMessage_delay (s : State) : (startMessage s).delay = s.delay := rfl
@[simp] theorem startMessage_draws (s : State) : (startMessage s).draws = s.draws := rfl
@[simp] theorem startMessage_host (s : State) : (startMessage s).host = s.host := rfl

@[simp] theorem accept_hash (p : Pending) (s : State) : (accept p s).hash = s.hash := rfl
@[simp] theorem accept_working (p : Pending) (s : State) : (accept p s).working = s.working := rfl
@[simp] theorem accept_schedule (p : Pending) (s : State) : (accept p s).schedule = s.schedule := rfl
@[simp] theorem accept_blk (p : Pending) (s : State) : (accept p s).blk = s.blk := rfl
@[simp] theorem accept_count (p : Pending) (s : State) : (accept p s).count = s.count := rfl
@[simp] theorem accept_mode (p : Pending) (s : State) : (accept p s).mode = s.mode := rfl
@[simp] theorem accept_busy (p : Pending) (s : State) : (accept p s).busy = true := rfl
@[simp] theorem accept_pend (p : Pending) (s : State) : (accept p s).pend = some p := rfl
@[simp] theorem accept_err (p : Pending) (s : State) : (accept p s).err = s.err := rfl
@[simp] theorem accept_errcode (p : Pending) (s : State) : (accept p s).errcode = s.errcode := rfl
@[simp] theorem accept_errovf (p : Pending) (s : State) : (accept p s).errovf = s.errovf := rfl
@[simp] theorem accept_delay (p : Pending) (s : State) : (accept p s).delay = latency p s.draws := rfl
@[simp] theorem accept_draws (p : Pending) (s : State) : (accept p s).draws = s.draws + 1 := rfl
@[simp] theorem accept_host (p : Pending) (s : State) : (accept p s).host = s.host := rfl

@[simp] theorem complete_hash (h : HashState) (c : BitVec 64) (m : Mode) (s : State) : (complete h c m s).hash = h := rfl
@[simp] theorem complete_working (h : HashState) (c : BitVec 64) (m : Mode) (s : State) : (complete h c m s).working = freeWorking s.draws := rfl
@[simp] theorem complete_schedule (h : HashState) (c : BitVec 64) (m : Mode) (s : State) : (complete h c m s).schedule = freeSchedule s.draws := rfl
@[simp] theorem complete_blk (h : HashState) (c : BitVec 64) (m : Mode) (s : State) : (complete h c m s).blk = s.blk := rfl
@[simp] theorem complete_count (h : HashState) (c : BitVec 64) (m : Mode) (s : State) : (complete h c m s).count = c := rfl
@[simp] theorem complete_mode (h : HashState) (c : BitVec 64) (m : Mode) (s : State) : (complete h c m s).mode = m := rfl
@[simp] theorem complete_busy (h : HashState) (c : BitVec 64) (m : Mode) (s : State) : (complete h c m s).busy = false := rfl
@[simp] theorem complete_pend (h : HashState) (c : BitVec 64) (m : Mode) (s : State) : (complete h c m s).pend = none := rfl
@[simp] theorem complete_err (h : HashState) (c : BitVec 64) (m : Mode) (s : State) : (complete h c m s).err = s.err := rfl
@[simp] theorem complete_errcode (h : HashState) (c : BitVec 64) (m : Mode) (s : State) : (complete h c m s).errcode = s.errcode := rfl
@[simp] theorem complete_errovf (h : HashState) (c : BitVec 64) (m : Mode) (s : State) : (complete h c m s).errovf = s.errovf := rfl
@[simp] theorem complete_delay (h : HashState) (c : BitVec 64) (m : Mode) (s : State) : (complete h c m s).delay = s.delay := rfl
@[simp] theorem complete_draws (h : HashState) (c : BitVec 64) (m : Mode) (s : State) : (complete h c m s).draws = s.draws + 1 := rfl
@[simp] theorem complete_host (h : HashState) (c : BitVec 64) (m : Mode) (s : State) : (complete h c m s).host = s.host := rfl

@[simp] theorem assertReset_hash (s : State) : (assertReset s).hash = initialValue := rfl
@[simp] theorem assertReset_working (s : State) : (assertReset s).working = State.reset.working := rfl
@[simp] theorem assertReset_schedule (s : State) : (assertReset s).schedule = State.reset.schedule := rfl
@[simp] theorem assertReset_blk (s : State) : (assertReset s).blk = [] := rfl
@[simp] theorem assertReset_count (s : State) : (assertReset s).count = 0 := rfl
@[simp] theorem assertReset_mode (s : State) : (assertReset s).mode = .idle := rfl
@[simp] theorem assertReset_busy (s : State) : (assertReset s).busy = false := rfl
@[simp] theorem assertReset_pend (s : State) : (assertReset s).pend = none := rfl
@[simp] theorem assertReset_err (s : State) : (assertReset s).err = false := rfl
@[simp] theorem assertReset_errcode (s : State) : (assertReset s).errcode = 0 := rfl
@[simp] theorem assertReset_errovf (s : State) : (assertReset s).errovf = false := rfl
@[simp] theorem assertReset_delay (s : State) : (assertReset s).delay = 0 := rfl
@[simp] theorem assertReset_draws (s : State) : (assertReset s).draws = s.draws := rfl
@[simp] theorem assertReset_host (s : State) : (assertReset s).host = s.host := rfl

@[simp] theorem tick_hash (s : State) : (tick s).hash = s.hash := rfl
@[simp] theorem tick_working (s : State) : (tick s).working = s.working := rfl
@[simp] theorem tick_schedule (s : State) : (tick s).schedule = s.schedule := rfl
@[simp] theorem tick_blk (s : State) : (tick s).blk = s.blk := rfl
@[simp] theorem tick_count (s : State) : (tick s).count = s.count := rfl
@[simp] theorem tick_mode (s : State) : (tick s).mode = s.mode := rfl
@[simp] theorem tick_busy (s : State) : (tick s).busy = s.busy := rfl
@[simp] theorem tick_pend (s : State) : (tick s).pend = s.pend := rfl
@[simp] theorem tick_err (s : State) : (tick s).err = s.err := rfl
@[simp] theorem tick_errcode (s : State) : (tick s).errcode = s.errcode := rfl
@[simp] theorem tick_errovf (s : State) : (tick s).errovf = s.errovf := rfl
@[simp] theorem tick_delay (s : State) : (tick s).delay = s.delay - 1 := rfl
@[simp] theorem tick_draws (s : State) : (tick s).draws = s.draws := rfl
@[simp] theorem tick_host (s : State) : (tick s).host = s.host := rfl

@[simp] theorem advanceHost_hash (s : State) : (advanceHost s).hash = s.hash := rfl
@[simp] theorem advanceHost_working (s : State) : (advanceHost s).working = s.working := rfl
@[simp] theorem advanceHost_schedule (s : State) : (advanceHost s).schedule = s.schedule := rfl
@[simp] theorem advanceHost_blk (s : State) : (advanceHost s).blk = s.blk := rfl
@[simp] theorem advanceHost_count (s : State) : (advanceHost s).count = s.count := rfl
@[simp] theorem advanceHost_mode (s : State) : (advanceHost s).mode = s.mode := rfl
@[simp] theorem advanceHost_busy (s : State) : (advanceHost s).busy = s.busy := rfl
@[simp] theorem advanceHost_pend (s : State) : (advanceHost s).pend = s.pend := rfl
@[simp] theorem advanceHost_err (s : State) : (advanceHost s).err = s.err := rfl
@[simp] theorem advanceHost_errcode (s : State) : (advanceHost s).errcode = s.errcode := rfl
@[simp] theorem advanceHost_errovf (s : State) : (advanceHost s).errovf = s.errovf := rfl
@[simp] theorem advanceHost_delay (s : State) : (advanceHost s).delay = s.delay := rfl
@[simp] theorem advanceHost_draws (s : State) : (advanceHost s).draws = s.draws := rfl
@[simp] theorem advanceHost_host (s : State) : (advanceHost s).host = { s.host with pc := s.host.pc + 1 } := rfl

@[simp] theorem jumpHost_hash (n : Nat) (s : State) : (jumpHost n s).hash = s.hash := rfl
@[simp] theorem jumpHost_working (n : Nat) (s : State) : (jumpHost n s).working = s.working := rfl
@[simp] theorem jumpHost_schedule (n : Nat) (s : State) : (jumpHost n s).schedule = s.schedule := rfl
@[simp] theorem jumpHost_blk (n : Nat) (s : State) : (jumpHost n s).blk = s.blk := rfl
@[simp] theorem jumpHost_count (n : Nat) (s : State) : (jumpHost n s).count = s.count := rfl
@[simp] theorem jumpHost_mode (n : Nat) (s : State) : (jumpHost n s).mode = s.mode := rfl
@[simp] theorem jumpHost_busy (n : Nat) (s : State) : (jumpHost n s).busy = s.busy := rfl
@[simp] theorem jumpHost_pend (n : Nat) (s : State) : (jumpHost n s).pend = s.pend := rfl
@[simp] theorem jumpHost_err (n : Nat) (s : State) : (jumpHost n s).err = s.err := rfl
@[simp] theorem jumpHost_errcode (n : Nat) (s : State) : (jumpHost n s).errcode = s.errcode := rfl
@[simp] theorem jumpHost_errovf (n : Nat) (s : State) : (jumpHost n s).errovf = s.errovf := rfl
@[simp] theorem jumpHost_delay (n : Nat) (s : State) : (jumpHost n s).delay = s.delay := rfl
@[simp] theorem jumpHost_draws (n : Nat) (s : State) : (jumpHost n s).draws = s.draws := rfl
@[simp] theorem jumpHost_host (n : Nat) (s : State) : (jumpHost n s).host = { s.host with pc := n } := rfl

@[simp] theorem noteRead_hash (v : Word) (s : State) : (noteRead v s).hash = s.hash := rfl
@[simp] theorem noteRead_working (v : Word) (s : State) : (noteRead v s).working = s.working := rfl
@[simp] theorem noteRead_schedule (v : Word) (s : State) : (noteRead v s).schedule = s.schedule := rfl
@[simp] theorem noteRead_blk (v : Word) (s : State) : (noteRead v s).blk = s.blk := rfl
@[simp] theorem noteRead_count (v : Word) (s : State) : (noteRead v s).count = s.count := rfl
@[simp] theorem noteRead_mode (v : Word) (s : State) : (noteRead v s).mode = s.mode := rfl
@[simp] theorem noteRead_busy (v : Word) (s : State) : (noteRead v s).busy = s.busy := rfl
@[simp] theorem noteRead_pend (v : Word) (s : State) : (noteRead v s).pend = s.pend := rfl
@[simp] theorem noteRead_err (v : Word) (s : State) : (noteRead v s).err = s.err := rfl
@[simp] theorem noteRead_errcode (v : Word) (s : State) : (noteRead v s).errcode = s.errcode := rfl
@[simp] theorem noteRead_errovf (v : Word) (s : State) : (noteRead v s).errovf = s.errovf := rfl
@[simp] theorem noteRead_delay (v : Word) (s : State) : (noteRead v s).delay = s.delay := rfl
@[simp] theorem noteRead_draws (v : Word) (s : State) : (noteRead v s).draws = s.draws := rfl
@[simp] theorem noteRead_host (v : Word) (s : State) : (noteRead v s).host = { s.host with reads := v :: s.host.reads } := rfl

@[simp] theorem storeBytes_hash (off : Nat) (bs : List Byte) (s : State) : (storeBytes off bs s).hash = s.hash := rfl
@[simp] theorem storeBytes_working (off : Nat) (bs : List Byte) (s : State) : (storeBytes off bs s).working = s.working := rfl
@[simp] theorem storeBytes_schedule (off : Nat) (bs : List Byte) (s : State) : (storeBytes off bs s).schedule = s.schedule := rfl
@[simp] theorem storeBytes_blk (off : Nat) (bs : List Byte) (s : State) : (storeBytes off bs s).blk = s.blk.writeBytes off bs := rfl
@[simp] theorem storeBytes_count (off : Nat) (bs : List Byte) (s : State) : (storeBytes off bs s).count = s.count := rfl
@[simp] theorem storeBytes_mode (off : Nat) (bs : List Byte) (s : State) : (storeBytes off bs s).mode = s.mode := rfl
@[simp] theorem storeBytes_busy (off : Nat) (bs : List Byte) (s : State) : (storeBytes off bs s).busy = s.busy := rfl
@[simp] theorem storeBytes_pend (off : Nat) (bs : List Byte) (s : State) : (storeBytes off bs s).pend = s.pend := rfl
@[simp] theorem storeBytes_err (off : Nat) (bs : List Byte) (s : State) : (storeBytes off bs s).err = s.err := rfl
@[simp] theorem storeBytes_errcode (off : Nat) (bs : List Byte) (s : State) : (storeBytes off bs s).errcode = s.errcode := rfl
@[simp] theorem storeBytes_errovf (off : Nat) (bs : List Byte) (s : State) : (storeBytes off bs s).errovf = s.errovf := rfl
@[simp] theorem storeBytes_delay (off : Nat) (bs : List Byte) (s : State) : (storeBytes off bs s).delay = s.delay := rfl
@[simp] theorem storeBytes_draws (off : Nat) (bs : List Byte) (s : State) : (storeBytes off bs s).draws = s.draws := rfl
@[simp] theorem storeBytes_host (off : Nat) (bs : List Byte) (s : State) : (storeBytes off bs s).host = s.host := rfl

end Sys2Proof.Machine
end

