-- ==== Sys2Proof/Laws/Engine.lean ====
section
/-! SUPPORT. One lemma per field per completion of the engine. -/

namespace Sys2Proof.Machine

@[simp] theorem completeBlock_hash (s : State) : (completeBlock s).hash = compress s.hash (blkBytes s 64) := complete_hash _ _ _ s
@[simp] theorem completeBlock_working (s : State) : (completeBlock s).working = freeWorking s.draws := complete_working _ _ _ s
@[simp] theorem completeBlock_schedule (s : State) : (completeBlock s).schedule = freeSchedule s.draws := complete_schedule _ _ _ s
@[simp] theorem completeBlock_blk (s : State) : (completeBlock s).blk = s.blk := complete_blk _ _ _ s
@[simp] theorem completeBlock_count (s : State) : (completeBlock s).count = s.count + 64 := complete_count _ _ _ s
@[simp] theorem completeBlock_mode (s : State) : (completeBlock s).mode = s.mode := complete_mode _ _ _ s
@[simp] theorem completeBlock_busy (s : State) : (completeBlock s).busy = false := complete_busy _ _ _ s
@[simp] theorem completeBlock_pend (s : State) : (completeBlock s).pend = none := complete_pend _ _ _ s
@[simp] theorem completeBlock_err (s : State) : (completeBlock s).err = s.err := complete_err _ _ _ s
@[simp] theorem completeBlock_errcode (s : State) : (completeBlock s).errcode = s.errcode := complete_errcode _ _ _ s
@[simp] theorem completeBlock_errovf (s : State) : (completeBlock s).errovf = s.errovf := complete_errovf _ _ _ s
@[simp] theorem completeBlock_delay (s : State) : (completeBlock s).delay = s.delay := complete_delay _ _ _ s
@[simp] theorem completeBlock_draws (s : State) : (completeBlock s).draws = s.draws + 1 := complete_draws _ _ _ s
@[simp] theorem completeBlock_host (s : State) : (completeBlock s).host = s.host := complete_host _ _ _ s

@[simp] theorem completeFinal_hash (n : BitVec 6) (s : State) : (completeFinal n s).hash = absorb s.hash (pad (blkBytes s n.toNat) (finalLength n s)) := complete_hash _ _ _ s
@[simp] theorem completeFinal_working (n : BitVec 6) (s : State) : (completeFinal n s).working = freeWorking s.draws := complete_working _ _ _ s
@[simp] theorem completeFinal_schedule (n : BitVec 6) (s : State) : (completeFinal n s).schedule = freeSchedule s.draws := complete_schedule _ _ _ s
@[simp] theorem completeFinal_blk (n : BitVec 6) (s : State) : (completeFinal n s).blk = s.blk := complete_blk _ _ _ s
@[simp] theorem completeFinal_count (n : BitVec 6) (s : State) : (completeFinal n s).count = BitVec.ofNat 64 (finalLength n s) := complete_count _ _ _ s
@[simp] theorem completeFinal_mode (n : BitVec 6) (s : State) : (completeFinal n s).mode = .done := complete_mode _ _ _ s
@[simp] theorem completeFinal_busy (n : BitVec 6) (s : State) : (completeFinal n s).busy = false := complete_busy _ _ _ s
@[simp] theorem completeFinal_pend (n : BitVec 6) (s : State) : (completeFinal n s).pend = none := complete_pend _ _ _ s
@[simp] theorem completeFinal_err (n : BitVec 6) (s : State) : (completeFinal n s).err = s.err := complete_err _ _ _ s
@[simp] theorem completeFinal_errcode (n : BitVec 6) (s : State) : (completeFinal n s).errcode = s.errcode := complete_errcode _ _ _ s
@[simp] theorem completeFinal_errovf (n : BitVec 6) (s : State) : (completeFinal n s).errovf = s.errovf := complete_errovf _ _ _ s
@[simp] theorem completeFinal_delay (n : BitVec 6) (s : State) : (completeFinal n s).delay = s.delay := complete_delay _ _ _ s
@[simp] theorem completeFinal_draws (n : BitVec 6) (s : State) : (completeFinal n s).draws = s.draws + 1 := complete_draws _ _ _ s
@[simp] theorem completeFinal_host (n : BitVec 6) (s : State) : (completeFinal n s).host = s.host := complete_host _ _ _ s

end Sys2Proof.Machine
end

