-- ==== Sys2Proof/Laws/PerInstr.lean ====
section
/-! SUPPORT. Statements made of every instruction, one lemma per constructor. -/

namespace Sys2Proof

/-- A FINAL word under its mask: the field N and nothing else is masked out (R102). -/
theorem final_masked : ∀ n : BitVec 6, encode (.final n) &&& 0xFFFFC0FF = 0x00000003 := by decide

namespace Laws.RowPattern

/-- R102: an instruction's word has the bits its row of the opcode map fixes. -/
def Statement (i : Instr) : Prop := encode i &&& (opcodeRow i).mask = (opcodeRow i).pattern

theorem nop : Statement .nop := rfl
theorem init : Statement .init := rfl
theorem block : Statement .block := rfl
theorem final (n : BitVec 6) : Statement (.final n) := final_masked n
theorem clrerr : Statement .clrerr := rfl

end Laws.RowPattern

end Sys2Proof
end

