-- ==== Sys2Proof/Laws/Step.lean ====
section
/-! SUPPORT. What each shared operation, each command, a host access, the engine and a step can do, said once. -/

namespace Sys2Proof.Machine

/-- The acceptance checks end in an error record or in an acceptance. -/
theorem acceptIfOpen_cases (p : Pending) (n : Nat) (s : State) :
    (∃ e, acceptIfOpen p n s = recordError e s) ∨
    (s.mode = .opened ∧ s.count.toNat + n ≤ maxBytes ∧ acceptIfOpen p n s = accept p s) := by
  unfold acceptIfOpen
  split
  · exact .inl ⟨_, rfl⟩
  · rename_i hm
    split
    · exact .inl ⟨_, rfl⟩
    · exact .inr ⟨by simpa using hm, by omega, rfl⟩

/-- Every way a command that is issued while BUSY = 0 can change the state. -/
inductive CommandEffect (s : State) : State → Prop where
  | unchanged : CommandEffect s s
  | erred (e : ErrorCode) : CommandEffect s (recordError e s)
  | started : CommandEffect s (startMessage s)
  | cleared : CommandEffect s (clearErrors s)
  | accepted (p : Pending) (open_ : s.mode = .opened)
      (fits : p = .block → s.count.toNat + 64 ≤ maxBytes) : CommandEffect s (accept p s)

theorem acceptIfOpen_effect (p : Pending) (n : Nat) (s : State) (h : p = .block → n = 64) :
    CommandEffect s (acceptIfOpen p n s) := by
  obtain ⟨e, he⟩ | ⟨hm, hn, he⟩ := acceptIfOpen_cases p n s
  · exact he ▸ .erred e
  · exact he ▸ .accepted p hm fun hp => h hp ▸ hn

/-- A command answers a next state: while busy with BUSY_VIOLATION recorded, else with one of its effects. -/
theorem exec_effect (i : Instr) (s : State) : ∃ t, exec i s = .next t ∧
    (s.busy = true ∧ t = recordError .busyViolation s ∨ s.busy = false ∧ CommandEffect s t) := by
  cases hb : s.busy
  case true =>
    refine ⟨recordError .busyViolation s, ?_, .inl ⟨rfl, rfl⟩⟩
    cases i <;> simp [exec, execNop, execInit, execBlock, execFinal, execClrerr, unlessBusy, hb]
  case false =>
    cases i with
    | nop => exact ⟨s, by simp [exec, execNop, unlessBusy, hb], .inr ⟨rfl, .unchanged⟩⟩
    | init => exact ⟨_, by simp [exec, execInit, unlessBusy, hb], .inr ⟨rfl, .started⟩⟩
    | block =>
      exact ⟨_, by simp [exec, execBlock, unlessBusy, hb],
        .inr ⟨rfl, acceptIfOpen_effect .block 64 s fun _ => rfl⟩⟩
    | final n =>
      exact ⟨_, by simp [exec, execFinal, unlessBusy, hb],
        .inr ⟨rfl, acceptIfOpen_effect (.final n) n.toNat s fun h => by cases h⟩⟩
    | clrerr => exact ⟨_, by simp [exec, execClrerr, unlessBusy, hb], .inr ⟨rfl, .cleared⟩⟩

/-- The issue of any word answers a next state, with the effects of a command. -/
theorem command_effect (c : Word) (s : State) : ∃ t, command c s = .next t ∧
    (s.busy = true ∧ t = recordError .busyViolation s ∨ s.busy = false ∧ CommandEffect s t) := by
  unfold command
  split
  · rename_i hb
    exact ⟨_, rfl, .inl ⟨hb, rfl⟩⟩
  · rename_i hb
    have hb : s.busy = false := by simpa using hb
    split
    · exact ⟨_, rfl, .inr ⟨hb, .erred _⟩⟩
    · rename_i i _
      obtain ⟨t, ht, h⟩ := exec_effect i s
      exact ⟨t, ht, .inr ⟨hb, by simp_all⟩⟩

/-- Every way a host write can change the state. -/
inductive WriteEffect (s : State) : State → Prop where
  | erred (e : ErrorCode) : WriteEffect s (recordError e s)
  | commanded (ready : s.busy = false) {t : State} (effect : CommandEffect s t) : WriteEffect s t
  | stored (ready : s.busy = false) (off : Nat) (bs : List Byte) (lo : 0x40 ≤ off)
      (hi : off + bs.length ≤ 0x80) : WriteEffect s (storeBytes off bs s)

theorem writeBlk_effect (off : Nat) (bs : List Byte) (s : State) (lo : 0x40 ≤ off)
    (hi : off + bs.length ≤ 0x80) : WriteEffect s (writeBlk off bs s) := by
  unfold writeBlk
  split
  · exact .erred _
  · rename_i hb
    exact .stored (by simpa using hb) off bs lo hi

/-- A host write answers a next state: it never stops the machine. -/
theorem hostWrite_effect (off width : Nat) (v : Word) (s : State) :
    ∃ t, hostWrite off width v s = .next t ∧ WriteEffect s t := by
  unfold hostWrite
  split
  · obtain ⟨t, ht, ⟨-, rfl⟩ | ⟨hb, h⟩⟩ := command_effect v s
    · exact ⟨_, ht, .erred _⟩
    · exact ⟨t, ht, .commanded hb h⟩
  · split
    · rename_i h
      exact ⟨_, rfl, writeBlk_effect _ _ _ h.2.2.1 (by simp [bytesBe32]; omega)⟩
    · split
      · rename_i h
        exact ⟨_, rfl, writeBlk_effect _ _ _ h.2.1 (by simp; omega)⟩
      · exact ⟨_, rfl, .erred _⟩

/-- Every way a step can lead to a next state. -/
inductive StepEffect (s : State) : State → Prop where
  /-- The engine completes a BLOCK. -/
  | blockDone (turn : s.busy = true ∧ s.delay = 0) (pending : s.pend = some .block) :
      StepEffect s (completeBlock s)
  /-- The engine completes a FINAL. -/
  | finalDone (turn : s.busy = true ∧ s.delay = 0) (n : BitVec 6) (pending : s.pend = some (.final n)) :
      StepEffect s (completeFinal n s)
  /-- The host has made its last access. -/
  | idled (turn : s.busy = false ∨ s.delay ≠ 0) : StepEffect s (tick s)
  /-- The host writes. -/
  | wrote (turn : s.busy = false ∨ s.delay ≠ 0) {t : State} (effect : WriteEffect (advanceHost (tick s)) t) :
      StepEffect s t
  /-- The host reads. -/
  | read (turn : s.busy = false ∨ s.delay ≠ 0) (v : Word) : StepEffect s (noteRead v (advanceHost (tick s)))
  /-- The host's BUSYLOOP goes on. -/
  | passed (turn : s.busy = false ∨ s.delay ≠ 0) : StepEffect s (advanceHost (tick s))
  /-- The host's BUSYLOOP jumps. -/
  | jumped (turn : s.busy = false ∨ s.delay ≠ 0) (n : Nat) : StepEffect s (jumpHost n (advanceHost (tick s)))
  /-- The host asserts reset. -/
  | wasReset (turn : s.busy = false ∨ s.delay ≠ 0)
      (line : s.host.program[s.host.pc]? = some .assertReset) : StepEffect s (assertReset (advanceHost (tick s)))

/-- The inversion of a step: a next state comes from one of these effects. -/
theorem step_effect {s t : State} (h : step s = .next t) : StepEffect s t := by
  unfold step at h
  split at h
  · rename_i ht
    have turn : s.busy = true ∧ s.delay = 0 := by simpa [engineTurn] using ht
    unfold engineStep at h
    split at h
    · cases h
    · cases h; exact .blockDone turn ‹_›
    · cases h; exact .finalDone turn _ ‹_›
  · rename_i ht
    have turn : s.busy = false ∨ s.delay ≠ 0 := by
      rw [engineTurn, Bool.and_eq_true, beq_iff_eq, not_and] at ht
      cases hb : s.busy
      · exact .inl rfl
      · exact .inr (ht hb)
    unfold hostTurn at h
    split at h
    · cases h; exact .idled turn
    · rename_i l hl
      unfold runLine at h
      split at h
      · split at h
        · obtain ⟨u, hu, he⟩ := hostWrite_effect _ _ _ (advanceHost (tick s))
          rw [hu] at h; cases h; exact .wrote turn he
        · cases h
      · split at h
        · cases h; exact .read turn _
        · cases h
      · split at h <;> cases h
        · exact .jumped turn _
        · exact .passed turn
      · cases h; exact .wasReset turn hl

end Sys2Proof.Machine
end

