-- ==== Sys2Proof/Tests/Slice0.lean ====
section
/-! SUPPORT. Tests on fixed values, every expected result taken from spec/ (95_test_vectors.md unless a rule is named), and for each obligation with hypotheses a witness that meets them. -/

namespace Sys2Proof.Tests

open Sys2Proof.Machine

/-! ## Helpers -/

/-- The next state of an outcome, if there is one. -/
def nextOf : Host.Outcome State Fault Refusal → Option State
  | .next s => some s
  | .fault _ => none
  | .refused _ => none

/-- STATUS after an outcome. -/
def statusAfter (o : Host.Outcome State Fault Refusal) : Option Word := (nextOf o).map statusWord

/-- The reset state in a given mode and with a given COUNT. -/
def inMode (m : Mode) (c : BitVec 64) : State := { State.reset with mode := m, count := c }

/-- An open block with a pending command that completes after `d` host turns. -/
def pendingIn (p : Pending) (d : Nat) : State := { inMode .opened 0 with busy := true, pend := some p, delay := d }

/-- A state whose host has one line to run. -/
def withLine (l : HostLine) (s : State) : State := { s with host := ⟨[l], 0, []⟩ }

/-- BLK holding the bytes of "abc". -/
def abcMemory : Memory := [(0x40, 0x61), (0x41, 0x62), (0x42, 0x63)]

/-- The eight Words of a digest, each given as the spec prints it. -/
def hashOf (a b c d e f g h : Word) : HashState := ⟨a, b, c, d, e, f, g, h⟩

/-- The digest of "abc" (S2). -/
def abcHash : HashState :=
  hashOf 0xba7816bf 0x8f01cfea 0x414140de 0x5dae2223 0xb00361a3 0x96177a9c 0xb410ff61 0xf20015ad

/-- The padded block of "abc" (section 3): 61 62 63 80, 52 zero bytes, the length 0x18. -/
def abcBlock : List Byte := [0x61, 0x62, 0x63, 0x80] ++ List.replicate 59 0 ++ [0x18]

/-! ## Encoding: words written out bit by bit from 30_encoding.md R100, R102 -/

theorem test_word_nop : decode 0b00000000000000000000000000000000 = .ok .nop := by decide
theorem test_word_init : decode 0b00000000000000000000000000000001 = .ok .init := by decide
theorem test_word_block : decode 0b00000000000000000000000000000010 = .ok .block := by decide
/-- N = 0b111000 = 56 in bits [13:8], OP = 3 (P4: FINAL 56 is 0x3803). -/
theorem test_word_final : decode 0b00000000000000000011100000000011 = .ok (.final 56) := by decide
theorem test_word_clrerr : decode 0b00000000000000000000000000000100 = .ok .clrerr := by decide
/-- Bit 14 is just above N (vector 13), bit 7 just below it. -/
theorem test_word_final_reserved :
    decode 0x00004003 = .error .reservedBits ∧ decode 0x00000083 = .error .reservedBits := by decide
/-- FINAL 63 as a table word, and a number that does not fit in 32 bits. -/
theorem test_table_word :
    decodeTableWord 32 0x3F03 = some (.final 63) ∧ decodeTableWord 32 0x100000000 = none := by decide

/-! ## WellFormed smoke: one ill-formed term for each check -/

theorem test_wf_final : (Pseudo.final 63).wf = true ∧ (Pseudo.final 64).wf = false := by decide
theorem test_wf_loadw : (Pseudo.loadw 15 0).wf = true ∧ (Pseudo.loadw 16 0).wf = false := by decide
theorem test_wf_loadb : (Pseudo.loadb 63 0).wf = true ∧ (Pseudo.loadb 64 0).wf = false := by decide
theorem test_wf_loadbytes :
    (Pseudo.loadbytes (List.replicate 64 0)).wf = true ∧ (Pseudo.loadbytes (List.replicate 65 0)).wf = false := by decide
theorem test_wf_write : (HostLine.write 0xFF 1 0).wf = true ∧ (HostLine.write 0x100 4 0).wf = false := by decide
theorem test_wf_read : (HostLine.read 0xFF 1).wf = true ∧ (HostLine.read 0x100 4).wf = false := by decide
/-- R107: WAIT placed after one line loops to its own read. -/
theorem test_assemble_wait :
    assemble [.final 3, .wait] = [.write 0x00 4 0x303, .read 0x04 4, .busyLoop 1] := by decide

/-! ## Primitives (40_primitives.md, section 2) -/

theorem test_shr_zero_fill : shr 0x80000001 1 = 0x40000000 ∧ shr 0x80000001 31 = 1 := by decide
theorem test_shl_drops : shl 0x80000001 10 = 0x00000400 ∧ shl 0xFFFFFFFF 4 = 0xFFFFFFF0 := by decide
theorem test_rotr : rotr 0x12345678 4 = 0x81234567 ∧ rotr 0x80000001 1 = 0xC0000000 := by decide
theorem test_rotl : rotl 0x12345678 4 = 0x23456781 ∧ rotl 0x12345678 31 = 0x091a2b3c := by decide
theorem test_sigma0 : sigma0 0x12345678 = 0xe7fce6ee ∧ sigma0 0x80000000 = 0x11002000 := by decide
theorem test_sigma1 : sigma1 0x12345678 = 0xa1f78649 ∧ sigma1 0x80000000 = 0x00205000 := by decide
theorem test_bigSigma0 : bigSigma0 0x12345678 = 0x66146474 ∧ bigSigma0 0x6a09e667 = 0xce20b47e := by decide
theorem test_bigSigma1 : bigSigma1 0x12345678 = 0x3561abda ∧ bigSigma1 0x510e527f = 0x3587272b := by decide
theorem test_choice : choice 0xff00ff00 0x12345678 0x9abcdef0 = 0x12bc56f0 := by decide
theorem test_majority : majority 0xff00ff00 0x0ff00ff0 0x00ffff00 = 0x0ff0ff00 := by decide

/-! ## Constants, schedule, rounds, padding, digest (41_compression.md, sections 3 to 5) -/

/-- The first 64 primes (R150: p_0 = 2 to p_63 = 311). -/
def firstPrimes : List Nat :=
  [2, 3, 5, 7, 11, 13, 17, 19, 23, 29, 31, 37, 41, 43, 47, 53, 59, 61, 67, 71, 73, 79] ++
  [83, 89, 97, 101, 103, 107, 109, 113, 127, 131, 137, 139, 149, 151, 157, 163, 167, 173, 179, 181, 191, 193] ++
  [197, 199, 211, 223, 227, 229, 233, 239, 241, 251, 257, 263, 269, 271, 277, 281, 283, 293, 307, 311]

/-- R150: `k` is the fraction of the cube root of `p`, cut off after 32 bits: with some integer part q in 1..6. -/
def isCubeRootFraction (p k : Nat) : Bool :=
  (List.range 7).any fun q => (q * 2 ^ 32 + k) ^ 3 ≤ p * 2 ^ 96 && p * 2 ^ 96 < (q * 2 ^ 32 + k + 1) ^ 3

theorem test_roundConstants_cube_roots :
    firstPrimes.length = 64 ∧
    (List.range 64).all (fun t => isCubeRootFraction (firstPrimes.getD t 0) (roundConstant t).toNat) = true := by
  decide +kernel

/-- V-C1: W[16], W[17], W[63] of the padded "abc" block. -/
theorem test_schedule_abc :
    let w := schedule abcBlock
    w.getD 16 0 = 0x61626380 ∧ w.getD 17 0 = 0x000f0000 ∧ w.getD 63 0 = 0x12b1edeb := by
  decide +kernel

/-- V-C1: the registers after round 0 of the "abc" block. -/
theorem test_round_zero_abc :
    rounds (schedule abcBlock) 1 (loadWorking initialValue) =
      ⟨0x5d6aebcd, 0x6a09e667, 0xbb67ae85, 0x3c6ef372, 0xfa2a4622, 0x510e527f, 0x9b05688c, 0x1f83d9ab⟩ := by
  decide +kernel

/-- Section 4: one compression of the all-zero block from the IV. -/
theorem test_compress_zero_block :
    compress initialValue (List.replicate 64 0) =
      hashOf 0xda5698be 0x17b9b469 0x62335799 0x779fbeca 0x8ce5d491 0xc0d26243 0xbafef9ea 0x1837a9d8 := by
  decide +kernel

/-- Section 3: the padded "abc" block, and the empty message's one block. -/
theorem test_pad_one_block :
    pad [0x61, 0x62, 0x63] 3 = [abcBlock] ∧ pad [] 0 = [0x80 :: List.replicate 63 0] := by decide +kernel

/-- Section 3: 55 bytes still fit in one block, 56 need a second one of zeros and the length 0x1C0. -/
theorem test_pad_boundary :
    (pad (List.replicate 55 7) 55).length = 1 ∧
    pad (List.replicate 56 7) 56 =
      [List.replicate 56 7 ++ [0x80] ++ List.replicate 7 0, List.replicate 62 0 ++ [0x01, 0xC0]] := by
  decide +kernel

/-- Section 6, length limit: the length field of a message of 2^61 - 1 bytes. -/
theorem test_length_field_limit :
    lengthField (2 ^ 61 - 1) = [0xFF, 0xFF, 0xFF, 0xFF, 0xFF, 0xFF, 0xFF, 0xF8] := by decide

/-- R166: the first and the last byte of the digest. -/
theorem test_digest_bytes :
    (digestBytes abcHash).getD 0 0 = 0xBA ∧ (digestBytes abcHash).getD 31 0 = 0xAD := by decide

/-! ## The error record and STATUS (section 6) -/

/-- Vectors 5 and 23: the first code is kept, ERROVF is set by the second. -/
theorem test_recordError_first_kept :
    statusWord (recordError .badSequence State.reset) = 0x028 ∧
    statusWord (recordError .badSequence (recordError .badSequence State.reset)) = 0x128 := by decide

theorem test_status_done : statusWord (inMode .done 3) = 0x004 := by decide

/-! ## The commands (section 6) -/

theorem test_nop_reset : statusAfter (command 0x00000000 State.reset) = some 0x000 := by decide
/-- R192: a write of 0 while busy is not harmless. -/
theorem test_nop_busy : statusAfter (command 0x00000000 (pendingIn .block 3)) = some 0x04B := by decide
theorem test_init_reset : statusAfter (command 0x00000001 State.reset) = some 0x002 := by decide
/-- Vector 26: INIT while busy. -/
theorem test_init_busy : statusAfter (command 0x00000001 (pendingIn .block 3)) = some 0x04B := by decide
theorem test_block_idle : statusAfter (command 0x00000002 State.reset) = some 0x028 := by decide
/-- Length limit: COUNT = 2^61 - 64. -/
theorem test_block_limit :
    statusAfter (command 0x00000002 (inMode .opened 0x1FFFFFFFFFFFFFC0)) = some 0x03A := by decide
theorem test_final_idle : statusAfter (command 0x00000003 State.reset) = some 0x028 := by decide
/-- Length limit: FINAL 63 at COUNT = 2^61 - 64 is accepted. -/
theorem test_final_limit :
    statusAfter (command 0x00003F03 (inMode .opened 0x1FFFFFFFFFFFFFC0)) = some 0x003 := by decide
/-- The CLRERR example of R203. -/
theorem test_clrerr_example :
    statusAfter (command 0x00000004 (recordError .badSequence (inMode .opened 0))) = some 0x002 := by decide
/-- Vector 27. -/
theorem test_clrerr_busy : statusAfter (command 0x00000004 (pendingIn .block 3)) = some 0x04B := by decide
/-- Vectors 8, 14 and 29. -/
theorem test_illegal_words :
    statusAfter (command 0x0000000F State.reset) = some 0x018 ∧
    statusAfter (command 0x00000102 (inMode .opened 0)) = some 0x01A ∧
    statusAfter (command 0x00000007 (pendingIn .block 3)) = some 0x04B := by decide

/-! ## The register space (section 6) -/

/-- Vectors 15, 16, 17, 19, 20, 21, 22. -/
theorem test_bad_accesses :
    statusAfter (hostWrite 0x00 1 1 State.reset) = some 0x058 ∧
    statusAfter (hostWrite 0x02 4 1 State.reset) = some 0x058 ∧
    statusAfter (hostWrite 0x04 4 0 State.reset) = some 0x058 ∧
    statusAfter (hostWrite 0x10 4 0 State.reset) = some 0x058 ∧
    statusAfter (hostWrite 0x80 4 0 State.reset) = some 0x058 ∧
    statusAfter (hostWrite 0x41 4 0 State.reset) = some 0x058 ∧
    statusAfter (hostWrite 0x40 2 0 State.reset) = some 0x058 := by decide

/-- Vectors 25 and 28. -/
theorem test_writes_while_busy :
    statusAfter (hostWrite 0x40 4 1 (pendingIn .block 3)) = some 0x04B ∧
    statusAfter (hostWrite 0x04 4 0 (pendingIn .block 3)) = some 0x05B := by decide

/-- R37, R63: a Word written at 0x7C is BLK[60..63], most significant byte first; a zero byte leaves no cell. -/
theorem test_blk_word_write :
    (nextOf (hostWrite 0x7C 4 0x61006380 State.reset)).map State.blk =
      some [(0x7C, 0x61), (0x7E, 0x63), (0x7F, 0x80)] := by decide

/-- P2: "abc" in BLK reads as the Word 0x61626300 and as bytes. -/
theorem test_blk_reads :
    hostRead 0x40 4 { State.reset with blk := abcMemory } = 0x61626300 ∧
    hostRead 0x42 1 { State.reset with blk := abcMemory } = 0x63 := by decide

/-- P1: RD8 0x80 and RD8 0x9F of a finished hash; every other mode reads 0 (R38). -/
theorem test_digest_reads :
    hostRead 0x80 1 { inMode .done 0 with hash := abcHash } = 0xBA ∧
    hostRead 0x9F 1 { inMode .done 0 with hash := abcHash } = 0xAD ∧
    hostRead 0x9C 4 { inMode .done 0 with hash := abcHash } = 0xf20015ad ∧
    hostRead 0x80 4 { inMode .opened 0 with hash := abcHash } = 0 := by decide

/-- Length limit: COUNT_LO and COUNT_HI at 2^61 - 64. -/
theorem test_count_reads :
    hostRead 0x08 4 (inMode .opened 0x1FFFFFFFFFFFFFC0) = 0xffffffc0 ∧
    hostRead 0x0C 4 (inMode .opened 0x1FFFFFFFFFFFFFC0) = 0x1fffffff := by decide

/-- Reads after reset. -/
theorem test_ill_formed_reads :
    hostRead 0x41 4 State.reset = 0 ∧ hostRead 0x04 1 (inMode .opened 0) = 0 ∧ hostRead 0x42 2 State.reset = 0 := by
  decide

/-! ## The engine (section 7) -/

/-- P1: FINAL 0 of the empty message (S1). -/
theorem test_final_empty :
    (nextOf (engineStep (pendingIn (.final 0) 0))).map (fun t => (t.hash, t.mode, t.count)) =
      some (hashOf 0xe3b0c442 0x98fc1c14 0x9afbf4c8 0x996fb924 0x27ae41e4 0x649b934c 0xa495991b 0x7852b855,
        .done, 0) := by
  decide +kernel

/-- P2: FINAL 3 with "abc" in BLK (S2); BLK[3] on is not read (P6). -/
theorem test_final_abc :
    (nextOf (engineStep { pendingIn (.final 3) 0 with blk := abcMemory ++ [(0x43, 0xFF)] })).map
        (fun t => (t.hash, t.mode, t.count)) = some (abcHash, .done, 3) := by
  decide +kernel

/-- P4', section 4: 56 zero bytes spill to a second padding block. -/
theorem test_final_spills :
    (nextOf (engineStep (pendingIn (.final 56) 0))).map State.hash =
      some (hashOf 0xd4817aa5 0x497628e7 0xc77e6b60 0x6107042b 0xbba31308 0x88c5f47a 0x375e6179 0xbe789fbb) := by
  decide +kernel

/-- P6, step 4: "abc" and 61 zero bytes as a full block. -/
theorem test_block_abc :
    (nextOf (engineStep { pendingIn .block 0 with blk := abcMemory })).map (fun t => (t.hash, t.mode, t.count)) =
      some (hashOf 0x1d4ed467 0x677c6167 0x44107626 0x7810ffb8 0x40c89a39 0x7316608c 0xa661d605 0x91f28c35,
        .opened, 64) := by
  decide +kernel

/-! ## The step (P5) -/

/-- P5a: no engine step before the second BLOCK: BUSY_VIOLATION. -/
theorem test_step_host_first :
    statusAfter (step (withLine (.write 0x00 4 2) (pendingIn (.final 0) 1))) = some 0x04B := by decide

/-- P5b: the engine's step first: MODE = DONE. -/
theorem test_step_engine_first :
    statusAfter (step (withLine (.write 0x00 4 2) (pendingIn (.final 0) 0))) = some 0x004 := by decide +kernel

/-- WAIT: BUSYLOOP goes back while the last STATUS read had bit 0 = 1, and on otherwise (R106). -/
theorem test_step_busy_loop :
    (nextOf (step { pendingIn .block 5 with host := ⟨[.read 0x04 4, .busyLoop 0], 1, [0x003]⟩ })).map
        (fun t => t.host.pc) = some 0 ∧
    (nextOf (step { inMode .opened 64 with host := ⟨[.read 0x04 4, .busyLoop 0], 1, [0x002]⟩ })).map
        (fun t => t.host.pc) = some 2 := by decide

/-- R251: reset while busy drops the pending command. -/
theorem test_step_reset :
    statusAfter (step (withLine .assertReset (pendingIn .block 5))) = some 0x000 := by decide

/-- Vector 4 through the loader: INIT is the first instruction after reset. -/
theorem test_fetch_init : statusAfter (step (State.reset.withFetchWord 32 1)) = some 0x002 := by decide

/-! ## Witnesses: states and operands that meet the hypotheses of the obligations -/

theorem inv_reset : State.reset.Inv := ⟨by decide, by decide, by decide, by decide⟩
theorem inv_open : (inMode .opened 0x1FFFFFFFFFFFFFC0).Inv := ⟨by decide, by decide, by decide, by decide⟩
theorem inv_pending (d : Nat) : (pendingIn (.final 3) d).Inv where
  busyOk := (by decide : busyConsistent (pendingIn (.final 3) 0))
  countOk := (by decide : countConsistent (pendingIn (.final 3) 0))
  errorOk := (by decide : errorConsistent (pendingIn (.final 3) 0))
  blkOk := (by decide : (pendingIn (.final 3) 0).blk.wf)
theorem inv_done : (inMode .done 3).Inv := ⟨by decide, by decide, by decide, by decide⟩

theorem witness_PseudoCommandsIssueTheirCommand :
    (Pseudo.final 0).wf = true ∧ (Pseudo.final 63).wf = true := by decide
theorem witness_InitThenClrerrIsResetButOpen :
    (inMode .done 3).busy = false ∧ (inMode .done 3).mode ≠ .idle ∧ ∃ v, exec .block (inMode .done 3) = .next v :=
  ⟨rfl, by decide, _, rfl⟩
theorem witness_RecordErrorKeepsTheFirst :
    State.reset.err = false ∧ (recordError .badAccess State.reset).err = true := by decide
theorem witness_IllegalWordRecordsIllegalCmd : State.reset.busy = false ∧ legal 0x00000005 = false := by decide
theorem witness_AbsorbingNeedsAnOpenMessage :
    (inMode .idle 0).busy = false ∧ (inMode .idle 0).mode ≠ .opened ∧ (inMode .done 0).mode ≠ .opened := by decide
theorem witness_BlockPastTheLimitIsRejected :
    let s := inMode .opened 0x1FFFFFFFFFFFFFC0
    s.busy = false ∧ s.mode = .opened ∧ s.count.toNat + 64 > 2 ^ 61 - 1 := by decide
theorem witness_BusyRejectsCmdAndBlkWrites :
    (pendingIn .block 1).busy = true ∧ (0x40 % 4 = 0 ∧ 0x40 ≤ 0x40 ∧ 0x40 ≤ 0x7C) ∧
    (0x7C % 4 = 0 ∧ 0x40 ≤ 0x7C ∧ 0x7C ≤ 0x7C) ∧ (0x40 ≤ 0x7F ∧ 0x7F ≤ 0x7F) := by decide
/-- The first offsets and widths beside the writable ones: 0x3F and 0x80 by bytes, 0x7D and 0x80 by Words. -/
theorem witness_OtherWritesRecordBadAccess :
    ∀ x ∈ [(0x3F, 1), (0x80, 1), (0x7D, 4), (0x80, 4), (0x00, 1), (0x04, 4), (0x40, 2)],
      ¬(x.2 = 4 ∧ x.1 = 0x00) ∧ ¬(x.2 = 4 ∧ x.1 % 4 = 0 ∧ 0x40 ≤ x.1 ∧ x.1 ≤ 0x7C) ∧
      ¬(x.2 = 1 ∧ 0x40 ≤ x.1 ∧ x.1 ≤ 0x7F) := by decide
theorem witness_WriteErrorsHaveOnePriority :
    let s := inMode .opened 0
    s.busy = false ∧ legal 0x00000004 = true ∧ (s.mode = .opened → s.count.toNat ≤ 2 ^ 61 - 64) := by decide
theorem witness_commands_idle_and_busy : State.reset.busy = false ∧ (pendingIn .block 0).busy = true := by decide
theorem witness_BlockIsAccepted :
    let s := inMode .opened 0x1FFFFFFFFFFFFF80
    s.busy = false ∧ s.mode = .opened ∧ s.count.toNat + 64 ≤ 2 ^ 61 - 1 := by decide
theorem witness_FinalIsAccepted :
    let s := inMode .opened 0x1FFFFFFFFFFFFFC0
    s.busy = false ∧ s.mode = .opened ∧ s.count.toNat + (63 : BitVec 6).toNat ≤ 2 ^ 61 - 1 := by decide
theorem witness_FinalNeverOverflows :
    let s := inMode .opened 0x1FFFFFFFFFFFFFC0
    s.Inv ∧ s.busy = false ∧ s.mode = .opened := ⟨inv_open, by decide, by decide⟩
theorem witness_CommandFrame : ∃ t, exec .init State.reset = .next t := ⟨_, rfl⟩
theorem witness_CommandFrame_rejected :
    ∃ t, exec .block (recordError .badAccess State.reset) = .next t ∧ (recordError .badAccess State.reset).err = true :=
  ⟨_, rfl, rfl⟩
theorem witness_ErrorRecordBlocksNoCommand :
    ∃ t t', exec .init State.reset = .next t ∧
      exec .init { State.reset with err := true, errcode := 5, errovf := true } = .next t' := ⟨_, _, rfl, rfl⟩
theorem witness_BlockCompletes :
    let s := pendingIn .block 0
    s.busy = true ∧ s.delay = 0 ∧ s.pend = some .block := by decide
theorem witness_FinalCompletes :
    let s := pendingIn (.final 63) 0
    s.busy = true ∧ s.delay = 0 ∧ s.pend = some (.final 63) := by decide
theorem witness_FinalIgnoresBytesBeyondTheTail :
    let s := { State.reset with blk := abcMemory }
    ∀ j < (3 : BitVec 6).toNat, blkByte { s with blk := abcMemory ++ [(0x43, 0xFF)] } j = blkByte s j := by decide
theorem witness_EngineMovesOnlyWhileBusy :
    State.reset.busy = false ∧ State.reset.host.program[State.reset.host.pc]? = none := by decide
theorem witness_PendingCommandKeepsItsOperands :
    ∃ t, (pendingIn .block 1).busy = true ∧ step (pendingIn .block 1) = .next t ∧ t.busy = true := ⟨_, rfl, rfl, rfl⟩
theorem witness_BusyEndsByCompletionOrReset :
    (pendingIn (.final 3) 7).Inv ∧ (pendingIn (.final 3) 7).host.wf ∧ (pendingIn (.final 3) 7).busy = true :=
  ⟨inv_pending 7, by unfold HostAgent.wf; decide, rfl⟩
/-- The host polls STATUS once while the command is pending. -/
theorem witness_PendingCommandCompletesUnlessReset :
    let s := withLine (.read 0x04 4) (pendingIn (.final 3) 7)
    s.Inv ∧ s.host.wf ∧ (∀ l ∈ s.host.program, l ≠ .assertReset) ∧ s.busy = true :=
  ⟨⟨(inv_pending 7).busyOk, (inv_pending 7).countOk, (inv_pending 7).errorOk, (inv_pending 7).blkOk⟩,
    by unfold HostAgent.wf; decide, by decide, rfl⟩
/-- One offset and width for each clause, the ends of the windows among them, with a finished and an open state. -/
theorem witness_HostReadReturnsTheRegister :
    (0x7C % 4 = 0 ∧ 0x40 ≤ 0x7C ∧ 0x7C ≤ 0x7C) ∧ (0x40 ≤ 0x7F ∧ 0x7F ≤ 0x7F) ∧
    (0x9C % 4 = 0 ∧ 0x80 ≤ 0x9C ∧ 0x9C ≤ 0x9C) ∧ (0x80 ≤ 0x9F ∧ 0x9F ≤ 0x9F) ∧
    (inMode .done 3).mode = .done ∧ (inMode .opened 0).mode ≠ .done ∧
    (0x10 ≤ 0x3F ∧ 0x3F ≤ 0x3F) ∧ (0xA0 ≤ 0xFF ∧ 0xFF ≤ 0xFF) ∧ 0x3F < 0x40 ∧ 0x41 % 4 ≠ 0 ∧ (2 ≠ 1 ∧ 2 ≠ 4) := by
  decide
theorem witness_DigestWindowShowsOnlyFinishedHashes :
    (inMode .done 3).mode = .done ∧ (inMode .opened 0).mode ≠ .done ∧ (0x80 ≤ 0x9F ∧ 0x9F ≤ 0x9F) := by decide
theorem witness_ByteLanesAreBigEndian :
    (0x7C % 4 = 0 ∧ 3 < 4 ∧ 0x40 ≤ 0x7C ∧ 0x7C ≤ 0x7C) ∧ (0x9C % 4 = 0 ∧ 0x80 ≤ 0x9C ∧ 0x9C ≤ 0x9C) := by decide
theorem witness_BlkWrites_read_back :
    let s := { inMode .done 3 with blk := abcMemory }
    s.blk.wf ∧ s.busy = false ∧ 0x7C % 4 = 0 ∧ 0x40 ≤ 0x7C ∧ 0x7C ≤ 0x7C ∧ 0x40 ≤ 0x7F ∧ 0x7F ≤ 0x7F := by decide
theorem witness_HostReadsHaveNoSideEffects :
    let s := withLine (.read 0xFF 1) (pendingIn .block 1)
    engineTurn s = false ∧ s.host.program[s.host.pc]? = some (.read 0xFF 1) ∧ 0xFF ≤ 0xFF := by decide
theorem witness_shift_and_rotation_amounts : (31 ≤ 31 ∧ 31 < 32) ∧ (1 ≤ 1 ∧ 1 ≤ 31) ∧ (1 ≤ 31) := by decide
theorem witness_ScheduleFollowsTheRecurrence : abcBlock.length = 64 := by decide
theorem witness_PaddingLayout :
    (List.replicate 63 (0 : Byte)).length ≤ 63 ∧ 2 ^ 61 - 1 ≤ 2 ^ 61 - 1 ∧ ([] : List Byte).length ≤ 63 := by decide
theorem witness_StepRunsTheDecodedCommand :
    let s := withLine (.write 0x00 4 0x3F03) (inMode .opened 0)
    engineTurn s = false ∧ s.host.program[s.host.pc]? = some (.write 0x00 4 0x3F03) ∧
    decode 0x3F03 = .ok (.final 63) := by decide
theorem witness_FetchedWordRunsNext : decodeTableWord 32 0x303 = some (.final 3) := by decide
/-- INIT after a finished message changes MODE, H and COUNT. -/
theorem witness_OnlyTheseEvents :
    let s := withLine (.write 0x00 4 1) { inMode .done 3 with hash := abcHash }
    ∃ t, s.Inv ∧ step s = .next t ∧ t.mode ≠ s.mode ∧ (t.hash ≠ s.hash ∨ t.count ≠ s.count) :=
  ⟨_, ⟨by decide, by decide, by decide, by decide⟩, rfl, by decide, by decide⟩
theorem witness_DigestStaysUntilInitOrReset :
    let s := withLine (.write 0x00 4 2) (inMode .done 3)
    ∃ t, s.Inv ∧ s.mode = .done ∧ step s = .next t := ⟨_, ⟨by decide, by decide, by decide, by decide⟩, rfl, rfl⟩
theorem witness_StepKeepsInv : ∃ t, (pendingIn (.final 3) 1).Inv ∧ step (pendingIn (.final 3) 1) = .next t :=
  ⟨_, inv_pending 1, rfl⟩
/-- The empty message has been absorbed right after INIT; both limits hold of it. -/
theorem witness_CommandsComputeSha256 :
    State.reset.busy = false ∧ (inMode .opened 0).Absorbed [] ∧ ([] : List Byte).length + 64 ≤ 2 ^ 61 - 1 ∧
    ([] : List Byte).length + (63 : BitVec 6).toNat ≤ 2 ^ 61 - 1 :=
  ⟨rfl, ⟨rfl, rfl, rfl, rfl, rfl⟩, by decide, by decide⟩

end Sys2Proof.Tests
end

section
/-! SUPPORT. The block's state (10_state.md): the invariant, the frame of the commands, the events that write
H, COUNT and MODE, the registers as the host sees them. -/

namespace Sys2Proof.Machine

/-! ## The invariant, kept by each operation (R31) -/

/-- The invariant speaks of neither the latency nor the host. -/
theorem State.Inv.withTurn {s : State} (h : s.Inv) (d : Nat) (a : HostAgent) :
    { s with delay := d, host := a }.Inv :=
  ⟨h.busyOk, h.countOk, h.errorOk, h.blkOk⟩

theorem State.Inv.tick {s : State} (h : s.Inv) : (tick s).Inv := h.withTurn _ _

theorem State.Inv.advanceHost {s : State} (h : s.Inv) : (advanceHost s).Inv := h.withTurn _ _

theorem State.Inv.jumpHost {s : State} (h : s.Inv) (n : Nat) : (jumpHost n s).Inv := h.withTurn _ _

theorem State.Inv.noteRead {s : State} (h : s.Inv) (v : Word) : (noteRead v s).Inv := h.withTurn _ _

/-- R220: no cause has a reserved code. -/
theorem ErrorCode.code_bounds (e : ErrorCode) : 1 ≤ e.code.toNat ∧ e.code.toNat ≤ 5 := by
  cases e <;> decide

theorem State.Inv.recordError {s : State} (h : s.Inv) (e : ErrorCode) : (recordError e s).Inv where
  busyOk := by simpa [busyConsistent] using h.busyOk
  countOk := by simpa [countConsistent] using h.countOk
  errorOk := by
    refine ⟨by simp, fun _ => ?_⟩
    cases hs : s.err
    · simpa [hs] using e.code_bounds
    · simpa [hs] using h.errorOk.2 hs
  blkOk := by simpa using h.blkOk

theorem State.Inv.clearErrors {s : State} (h : s.Inv) : (clearErrors s).Inv where
  busyOk := h.busyOk
  countOk := h.countOk
  errorOk := by simp [errorConsistent]
  blkOk := h.blkOk

theorem State.Inv.startMessage {s : State} (h : s.Inv) : (startMessage s).Inv where
  busyOk := ⟨fun hb => ⟨rfl, (h.busyOk.1 hb).2⟩, h.busyOk.2⟩
  countOk := by simp [countConsistent]
  errorOk := h.errorOk
  blkOk := h.blkOk

theorem State.Inv.accept {s : State} (h : s.Inv) {p : Pending} (hm : s.mode = .opened)
    (fits : p = .block → s.count.toNat + 64 ≤ maxBytes) : (accept p s).Inv where
  busyOk := by simp [busyConsistent, hm]
  countOk := by
    obtain ⟨hopen, hidle, hmax, -⟩ := h.countOk
    exact ⟨hopen, hidle, hmax, fun hp => fits (by simpa using hp)⟩
  errorOk := h.errorOk
  blkOk := h.blkOk

theorem State.Inv.storeBytes {s : State} (h : s.Inv) {off : Nat} {bs : List Byte} (lo : 0x40 ≤ off)
    (hi : off + bs.length ≤ 0x80) : (storeBytes off bs s).Inv where
  busyOk := h.busyOk
  countOk := h.countOk
  errorOk := h.errorOk
  blkOk := Memory.wf_writeBytes bs h.blkOk lo hi

/-- R196, R31.2: a BLOCK that was accepted completes to a COUNT that is still a multiple of 64 within the limit. -/
theorem State.Inv.completeBlock {s : State} (h : s.Inv) (hb : s.busy = true) (hp : s.pend = some .block) :
    (completeBlock s).Inv where
  busyOk := by simp [busyConsistent]
  countOk := by
    have hm : s.mode = .opened := (h.busyOk.1 hb).1
    obtain ⟨hopen, -, -, hblock⟩ := h.countOk
    have hmul := (hopen hm).1
    have hfits := hblock hp
    have hcount : (s.count + 64).toNat = s.count.toNat + 64 := by
      rw [BitVec.toNat_add]; exact Nat.mod_eq_of_lt (show s.count.toNat + 64 < 2 ^ 64 by omega)
    simp only [countConsistent, completeBlock_count, completeBlock_mode, completeBlock_pend, hm, hcount]
    refine ⟨fun _ => ?_, by simp, ?_, by simp⟩ <;> omega
  errorOk := by simpa [errorConsistent] using h.errorOk
  blkOk := by simpa using h.blkOk

/-- R201, R31.4: a FINAL that was accepted completes within MAXBYTES. -/
theorem State.Inv.completeFinal {s : State} (h : s.Inv) (hb : s.busy = true) (n : BitVec 6) :
    (completeFinal n s).Inv where
  busyOk := by simp [busyConsistent]
  countOk := by
    have hlen : s.count.toNat ≤ 2 ^ 61 - 64 := (h.countOk.1 (h.busyOk.1 hb).1).2
    have hn : n.toNat < 2 ^ 6 := n.isLt
    have hcount : (BitVec.ofNat 64 (finalLength n s)).toNat = s.count.toNat + n.toNat := by
      rw [BitVec.toNat_ofNat]; exact Nat.mod_eq_of_lt (show s.count.toNat + n.toNat < 2 ^ 64 by omega)
    simp only [countConsistent, completeFinal_count, completeFinal_mode, completeFinal_pend, hcount]
    refine ⟨by simp, by simp, ?_, by simp⟩
    omega
  errorOk := by simpa [errorConsistent] using h.errorOk
  blkOk := by simpa using h.blkOk

theorem State.inv_reset : State.reset.Inv where
  busyOk := by decide
  countOk := by decide
  errorOk := by decide
  blkOk := Memory.wf_reset

/-- R251: the reset input leads to the invariant from every state. -/
theorem State.inv_assertReset (s : State) : (assertReset s).Inv :=
  ⟨State.inv_reset.busyOk, State.inv_reset.countOk, State.inv_reset.errorOk, State.inv_reset.blkOk⟩

theorem CommandEffect.keepsInv {s t : State} (he : CommandEffect s t) (h : s.Inv) : t.Inv := by
  cases he with
  | unchanged => exact h
  | erred e => exact h.recordError e
  | started => exact h.startMessage
  | cleared => exact h.clearErrors
  | accepted p hm fits => exact h.accept hm fits

theorem WriteEffect.keepsInv {s t : State} (he : WriteEffect s t) (h : s.Inv) : t.Inv := by
  cases he with
  | erred e => exact h.recordError e
  | commanded _ effect => exact effect.keepsInv h
  | stored _ off bs lo hi => exact h.storeBytes lo hi

theorem StepEffect.keepsInv {s t : State} (he : StepEffect s t) (h : s.Inv) : t.Inv := by
  cases he with
  | blockDone turn pending => exact h.completeBlock turn.1 pending
  | finalDone turn n pending => exact h.completeFinal turn.1 n
  | idled => exact h.tick
  | wrote _ effect => exact effect.keepsInv h.tick.advanceHost
  | read _ v => exact h.tick.advanceHost.noteRead v
  | passed => exact h.tick.advanceHost
  | jumped _ n => exact h.tick.advanceHost.jumpHost n
  | wasReset => exact State.inv_assertReset _

/-- Settles O54: each effect of a step keeps the invariant. -/
theorem stepKeepsInv : Obligations.StepKeepsInv :=
  fun _ _ hs h => (step_effect h).keepsInv hs

/-- Settles O53, on the reset state's fields. -/
theorem invHoldsAtReset : Obligations.InvHoldsAtReset := State.inv_reset

/-! ## The frame of the commands at their issue (R191) -/

/-- Every way the issue of a given command can change the state: like `CommandEffect`, which forgets the command. -/
inductive IssueEffect (s : State) : Instr → State → Prop where
  | rejected (i : Instr) (e : ErrorCode) : IssueEffect s i (recordError e s)
  | nop : IssueEffect s .nop s
  | init (ready : s.busy = false) : IssueEffect s .init (startMessage s)
  | block : IssueEffect s .block (accept .block s)
  | final (n : BitVec 6) : IssueEffect s (.final n) (accept (.final n) s)
  | clrerr : IssueEffect s .clrerr (clearErrors s)

/-- R190: the check of BUSY either rejects the command or lets it run. -/
theorem unlessBusy_cases {s t : State} {k : State → State} (h : unlessBusy s k = .next t) :
    t = recordError .busyViolation s ∨ s.busy = false ∧ t = k s := by
  cases hb : s.busy
  · exact .inr ⟨rfl, by simpa [unlessBusy, hb] using h.symm⟩
  · exact .inl (by simpa [unlessBusy, hb] using h.symm)

/-- What each command does once the check of BUSY has passed. -/
def whenReady : Instr → State → State
  | .nop => id
  | .init => startMessage
  | .block => acceptIfOpen .block 64
  | .final n => acceptIfOpen (.final n) n.toNat
  | .clrerr => clearErrors

theorem exec_eq_unlessBusy (i : Instr) (s : State) : exec i s = unlessBusy s (whenReady i) := by
  cases i <;> rfl

/-- The inversion of a command's issue. -/
theorem exec_issue {i : Instr} {s t : State} (h : exec i s = .next t) : IssueEffect s i t := by
  rw [exec_eq_unlessBusy] at h
  obtain rfl | ⟨ready, rfl⟩ := unlessBusy_cases h
  · exact .rejected i _
  · cases i with
    | nop => exact .nop
    | init => exact .init ready
    | block =>
      rw [whenReady]
      obtain ⟨e, he⟩ | ⟨-, -, he⟩ := acceptIfOpen_cases .block 64 s
      · exact he ▸ .rejected _ e
      · exact he ▸ .block
    | final n =>
      rw [whenReady]
      obtain ⟨e, he⟩ | ⟨-, -, he⟩ := acceptIfOpen_cases (.final n) n.toNat s
      · exact he ▸ .rejected _ e
      · exact he ▸ .final n
    | clrerr => exact .clrerr

/-- R26, R191: no command writes BLK, the datapath registers or the host. -/
theorem IssueEffect.keepsOperands {i : Instr} {s t : State} (h : IssueEffect s i t) :
    t.blk = s.blk ∧ t.working = s.working ∧ t.schedule = s.schedule ∧ t.host = s.host := by
  cases h <;> simp

/-- R22, R27, R28: H, COUNT and MODE, the three elements that make up the message, are the same in two states. -/
abbrev SameMessage (s t : State) : Prop := t.hash = s.hash ∧ t.count = s.count ∧ t.mode = s.mode

theorem recordError_message (e : ErrorCode) (s : State) : SameMessage s (recordError e s) := by simp [SameMessage]

/-- R193: only INIT writes H, COUNT and MODE at its issue. -/
theorem IssueEffect.keepsMessage {i : Instr} {s t : State} (h : IssueEffect s i t) (hi : i ≠ .init) :
    SameMessage s t := by
  cases h with
  | init => exact absurd rfl hi
  | _ => simp [SameMessage]

/-- R195, R198: only BLOCK and FINAL write BUSY and PEND at their issue. -/
theorem IssueEffect.keepsEngine {i : Instr} {s t : State} (h : IssueEffect s i t)
    (hi : i = .nop ∨ i = .init ∨ i = .clrerr) : t.busy = s.busy ∧ t.pend = s.pend ∧ t.delay = s.delay := by
  cases h with
  | block | final => simp at hi
  | _ => simp

/-- R228: only CLRERR removes an error that is recorded. -/
theorem IssueEffect.keepsError {i : Instr} {s t : State} (h : IssueEffect s i t) (hi : i ≠ .clrerr)
    (he : s.err = true) : t.err = true ∧ t.errcode = s.errcode := by
  cases h with
  | clrerr => exact absurd rfl hi
  | _ => simp [he]

/-- Settles O22: a clause for each part of the state, from the inversion of a command's issue. -/
theorem commandFrame : Obligations.CommandFrame := by
  intro i s t h
  have effect := exec_issue h
  obtain ⟨hblk, hworking, hschedule, hhost⟩ := effect.keepsOperands
  exact ⟨fun a => by rw [hblk], hworking, hschedule, hhost, effect.keepsMessage, effect.keepsEngine,
    effect.keepsError⟩

/-! ## The events that write H, COUNT and MODE (R22, R27, R28) -/

/-- A command without an operand decodes only from itself. -/
theorem decodePlain_ok {i j : Instr} {c : Word} (h : decodePlain i c = .ok j) :
    plainReservedClear c = true ∧ i = j := by
  unfold decodePlain at h
  split at h
  · exact ⟨‹_›, by simpa using h⟩
  · cases h

/-- R102: no word but 0x00000001 is INIT. -/
theorem eq_one_of_decode_init {c : Word} (h : decode c = .ok .init) : c = 0x00000001 := by
  unfold decode at h
  split at h
  case h_2 hop =>
    have hzero : c.extractLsb' 4 28 = 0 := by simpa [plainReservedClear] using (decodePlain_ok h).1
    have hop : c.toNat % 16 = 1 := by simpa [opField, BitVec.extractLsb'_toNat] using hop
    have hzero : c.toNat / 16 % 2 ^ 28 = 0 := by
      simpa [BitVec.extractLsb'_toNat, Nat.shiftRight_eq_div_pow] using congrArg BitVec.toNat hzero
    apply BitVec.eq_of_toNat_eq
    show c.toNat = 1
    omega
  case h_4 => split at h <;> cases h
  case h_6 => cases h
  all_goals cases (decodePlain_ok h).2

/-- The issue of a word writes H, COUNT or MODE only if it is an INIT that is not rejected. -/
theorem command_message {c : Word} {s t : State} (h : command c s = .next t) :
    SameMessage s t ∨ c = 0x00000001 ∧ s.busy = false ∧ t.mode = .opened := by
  unfold command at h
  split at h
  · cases h; exact .inl (recordError_message _ s)
  · split at h
    · cases h; exact .inl (recordError_message _ s)
    · rename_i i hi
      have effect := exec_issue h
      by_cases hinit : i = .init
      · subst hinit
        cases effect with
        | rejected _ e => exact .inl (recordError_message e s)
        | init ready => exact .inr ⟨eq_one_of_decode_init hi, ready, rfl⟩
      · exact .inl (effect.keepsMessage hinit)

theorem writeBlk_message (off : Nat) (bs : List Byte) (s : State) : SameMessage s (writeBlk off bs s) := by
  unfold writeBlk
  split
  · exact recordError_message _ s
  · exact ⟨rfl, rfl, rfl⟩

/-- What a host line does to H, COUNT and MODE: nothing, unless it issues INIT or asserts reset. -/
theorem runLine_message {l : HostLine} {s t : State} (h : runLine l s = .next t) :
    SameMessage s t ∨ (l = .write 0x00 4 0x00000001 ∧ s.busy = false ∧ t.mode = .opened) ∨
      (l = .assertReset ∧ t.mode = .idle) := by
  cases l with
  | write off width v =>
    simp only [runLine] at h
    split at h
    · unfold hostWrite at h
      split at h
      case isTrue hcmd =>
        obtain ⟨rfl, rfl⟩ := hcmd
        obtain hsame | ⟨rfl, hinit⟩ := command_message h
        · exact .inl hsame
        · exact .inr (.inl ⟨rfl, hinit⟩)
      · split at h
        · cases h; exact .inl (writeBlk_message _ _ s)
        · split at h
          · cases h; exact .inl (writeBlk_message _ _ s)
          · cases h; exact .inl (recordError_message _ s)
    · cases h
  | read off width =>
    simp only [runLine] at h
    split at h
    · cases h; exact .inl ⟨rfl, rfl, rfl⟩
    · cases h
  | busyLoop target =>
    cases h
    refine .inl ?_
    split <;> exact ⟨rfl, rfl, rfl⟩
  | assertReset => cases h; exact .inr (.inr ⟨rfl, rfl⟩)

/-- Every way a step can bear on H, COUNT and MODE. -/
inductive MessageEvent (s t : State) : Prop where
  | kept (same : SameMessage s t)
  | initIssued (line : s.host.program[s.host.pc]? = some (.write 0x00 4 0x00000001)) (ready : s.busy = false)
      (mode : t.mode = .opened)
  | blockCompleted (turn : s.busy = true ∧ s.delay = 0) (idle : t.busy = false) (mode : t.mode = s.mode)
  | finalCompleted (turn : s.busy = true ∧ s.delay = 0) (idle : t.busy = false)
      (pending : ∃ n, s.pend = some (.final n)) (mode : t.mode = .done)
  | wasReset (line : s.host.program[s.host.pc]? = some .assertReset) (mode : t.mode = .idle)

theorem hostTurn_message {s t : State} (h : hostTurn (tick s) = .next t) : MessageEvent s t := by
  unfold hostTurn at h
  split at h
  · cases h; exact .kept ⟨rfl, rfl, rfl⟩
  · rename_i l hl
    obtain hsame | ⟨rfl, ready, mode⟩ | ⟨rfl, mode⟩ := runLine_message h
    · exact .kept hsame
    · exact .initIssued hl ready mode
    · exact .wasReset hl mode

theorem engineStep_message {s t : State} (turn : s.busy = true ∧ s.delay = 0) (h : engineStep s = .next t) :
    MessageEvent s t := by
  unfold engineStep at h
  split at h
  · cases h
  · cases h; exact .blockCompleted turn (completeBlock_busy s) (completeBlock_mode s)
  · cases h; exact .finalCompleted turn (completeFinal_busy _ s) ⟨_, ‹_›⟩ (completeFinal_mode _ s)

theorem step_message {s t : State} (h : step s = .next t) : MessageEvent s t := by
  unfold step at h
  split at h
  · exact engineStep_message (by simpa [engineTurn] using ‹engineTurn s = true›) h
  · exact hostTurn_message h

/-- Settles O50: of the events of a step, the invariant gives a completing FINAL its MODE = OPEN. -/
theorem onlyTheseEventsChangeMode : Obligations.OnlyTheseEventsChangeMode := by
  intro s t hs h hne
  cases step_message h with
  | kept same => exact absurd same.2.2 hne
  | initIssued line ready mode => exact .inl ⟨line, ready, mode⟩
  | blockCompleted _ _ mode => exact absurd mode hne
  | finalCompleted turn _ pending mode => exact .inr (.inl ⟨pending, turn.1, (hs.busyOk.1 turn.1).1, mode⟩)
  | wasReset line mode => exact .inr (.inr ⟨line, mode⟩)

/-- Settles O51, by the events of a step. -/
theorem onlyTheseEventsWriteHashOrCount : Obligations.OnlyTheseEventsWriteHashOrCount := by
  intro s t h hne
  cases step_message h with
  | kept same =>
    obtain ⟨hhash, hcount, -⟩ := same
    exact hne.elim (absurd hhash) (absurd hcount)
  | initIssued line ready => exact .inl ⟨line, ready⟩
  | blockCompleted turn idle => exact .inr (.inl ⟨turn.1, turn.2, idle⟩)
  | finalCompleted turn idle => exact .inr (.inl ⟨turn.1, turn.2, idle⟩)
  | wasReset line => exact .inr (.inr line)

/-! ## STATUS (R34, R35) -/

theorem flagAt_getLsbD (b : Bool) {i j : Nat} (hj : j < 32) : (flagAt b i).getLsbD j = (decide (j = i) && b) := by
  by_cases h : j = i
  · subst h; simp [flagAt, hj]
  · by_cases hlt : j < i
    · simp [flagAt, hlt, h]
    · simp [flagAt, h, show j - i ≠ 0 by omega]

/-- R35: the bits of STATUS. -/
theorem statusWord_getLsbD (s : State) {j : Nat} (hj : j < 32) :
    (statusWord s).getLsbD j = (decide (j = 8) && s.errovf || (decide (4 ≤ j) && s.errcode.getLsbD (j - 4)) ||
      decide (j = 3) && s.err || decide (j = 2) && s.mode == .done || decide (j = 1) && s.mode == .opened ||
      decide (j = 0) && s.busy) := by
  have hcode : (s.errcode.setWidth 32 <<< 4).getLsbD j = (decide (4 ≤ j) && s.errcode.getLsbD (j - 4)) := by
    by_cases h : j < 4
    · simp [h]
    · simp [hj, h, show 4 ≤ j by omega]
  simp only [statusWord, BitVec.getLsbD_or, flagAt_getLsbD _ hj, hcode]

@[simp] theorem hostRead_status (s : State) : hostRead 0x04 4 s = statusWord s := rfl

theorem statusWord_errcode (s : State) : (statusWord s).extractLsb' 4 4 = s.errcode := by
  apply BitVec.eq_of_getLsbD_eq
  intro i hi
  rw [BitVec.getLsbD_extractLsb', statusWord_getLsbD s (by omega)]
  simp [hi, show 4 + i ≠ 8 by omega, show 4 + i ≠ 3 by omega, show 4 + i ≠ 2 by omega, show 4 + i ≠ 1 by omega]

theorem statusWord_reserved (s : State) : (statusWord s).extractLsb' 9 23 = 0 := by
  apply BitVec.eq_of_getLsbD_eq
  intro i hi
  rw [BitVec.getLsbD_extractLsb', statusWord_getLsbD s (by omega)]
  have hcode : s.errcode.getLsbD (9 + i - 4) = false := BitVec.getLsbD_of_ge _ _ (by omega)
  simp [hcode, show 9 + i ≠ 8 by omega, show 9 + i ≠ 3 by omega, show 9 + i ≠ 2 by omega, show 9 + i ≠ 1 by omega]

/-- R72, R74: outside CMD and BLK every write of every width is BAD_ACCESS. -/
theorem hostWrite_badAccess {off : Nat} (hcmd : off ≠ 0) (hblk : off < 0x40 ∨ 0x7F < off) (width : Nat) (v : Word)
    (s : State) : hostWrite off width v s = .next (recordError .badAccess s) := by
  unfold hostWrite
  rw [if_neg (by omega), if_neg (by omega), if_neg (by omega)]

/-- Settles O30: every field is read off the bits of STATUS. -/
theorem statusRegisterLayout : Obligations.StatusRegisterLayout := by
  refine ⟨by decide, fun s => ?_⟩
  have hbusy : (statusWord s).getLsbD 0 = s.busy := by rw [statusWord_getLsbD s (by decide)]; simp
  have hopen : (statusWord s).getLsbD 1 = (s.mode == .opened) := by rw [statusWord_getLsbD s (by decide)]; simp
  have hdone : (statusWord s).getLsbD 2 = (s.mode == .done) := by rw [statusWord_getLsbD s (by decide)]; simp
  have herr : (statusWord s).getLsbD 3 = s.err := by rw [statusWord_getLsbD s (by decide)]; simp
  have hovf : (statusWord s).getLsbD 8 = s.errovf := by rw [statusWord_getLsbD s (by decide)]; simp
  rw [hostRead_status]
  refine ⟨hbusy, by rw [hopen, beq_iff_eq], by rw [hdone, beq_iff_eq], herr, statusWord_errcode s, hovf, statusWord_reserved s, ?_, ?_,
    fun w => hostWrite_badAccess (by decide) (by decide) 4 w s⟩
  · rw [hopen, hdone]; cases s.mode <;> decide
  · rw [hopen, hdone]; cases s.mode <;> decide

/-! ## The DIGEST window (R38, R166) -/

/-- R8: Words one after the other as bytes: byte `k` of Word `i`. -/
theorem flatMap_bytesBe32_getD (ws : List Word) {i k : Nat} (hi : i < ws.length) (hk : k < 4) :
    (ws.flatMap bytesBe32).getD (4 * i + k) 0 = laneOf (ws.getD i 0) k := by
  induction ws generalizing i with
  | nil => simp at hi
  | cons w ws ih =>
    rw [List.flatMap_cons]
    cases i with
    | zero =>
      rw [List.getD_append _ _ _ _ (by simpa using hk)]
      interval_cases k <;> rfl
    | succ i =>
      rw [List.getD_append_right _ _ _ _ (by simp; omega), bytesBe32_length,
        show 4 * (i + 1) + k - 4 = 4 * i + k by omega, List.getD_cons_succ]
      exact ih (by simpa using hi)

theorem digestBytes_getD (h : HashState) {i k : Nat} (hi : i < 8) (hk : k < 4) :
    (digestBytes h).getD (4 * i + k) 0 = laneOf (h.words.getD i 0) k :=
  flatMap_bytesBe32_getD h.words hi hk

theorem hostRead_digestWord {off : Nat} (lo : 0x80 ≤ off) (hi : off ≤ 0x9C) (ha : off % 4 = 0) (s : State) :
    hostRead off 4 s = digestWord s ((off - 0x80) / 4) := by
  unfold hostRead readWord
  rw [if_pos ⟨rfl, ha⟩, if_neg (by omega), if_neg (by omega), if_neg (by omega), if_neg (by omega),
    if_pos ⟨lo, hi⟩]
  rfl

theorem hostRead_digestByte {off : Nat} (lo : 0x80 ≤ off) (hi : off ≤ 0x9F) (s : State) :
    hostRead off 1 s = (digestByte s (off - 0x80)).setWidth 32 := by
  unfold hostRead readByte
  rw [if_neg (by omega), if_pos rfl, if_neg (by omega), if_pos ⟨lo, hi⟩]
  rfl

/-- R64: a read that is neither an aligned Word nor a byte gives 0. -/
theorem hostRead_illFormed {off width : Nat} (hword : ¬(width = 4 ∧ off % 4 = 0)) (hbyte : width ≠ 1) (s : State) :
    hostRead off width s = 0 := by
  unfold hostRead
  rw [if_neg hword, if_neg hbyte]

/-- R38: outside MODE = DONE the window reads 0 at every width. -/
theorem hostRead_digest_hidden {s : State} (hm : s.mode ≠ .done) {off : Nat} (width : Nat) (lo : 0x80 ≤ off)
    (hi : off ≤ 0x9F) : hostRead off width s = 0 := by
  by_cases hword : width = 4 ∧ off % 4 = 0
  · obtain ⟨rfl, ha⟩ := hword
    rw [hostRead_digestWord lo (by omega) ha, digestWord, if_neg hm]
  · by_cases hbyte : width = 1
    · subst hbyte
      rw [hostRead_digestByte lo hi, digestByte, if_neg hm]
      rfl
    · exact hostRead_illFormed hword hbyte s

/-- Settles O32: the bytes of the digest are the lanes of H's Words. -/
theorem digestWindowShowsOnlyFinishedHashes : Obligations.DigestWindowShowsOnlyFinishedHashes := by
  intro s
  refine ⟨fun hm i hi => ?_, fun hm i hi k hk => ?_, fun hm off width => hostRead_digest_hidden hm width,
    fun off width v lo hi => hostWrite_badAccess (by omega) (by omega) width v s⟩
  · rw [hostRead_digestWord (by omega) (by omega) (by omega), show (0x80 + 4 * i - 0x80) / 4 = i by omega, digestWord,
      if_pos hm]
  · rw [hostRead_digestByte (by omega) (by omega), show 0x80 + 4 * i + k - 0x80 = 4 * i + k by omega, digestByte,
      if_pos hm, digestBytes_getD s.hash hi hk]
    rfl

/-! ## The BLK window (R37, R63, R72, R73) -/

theorem hostRead_blkWord {off : Nat} (lo : 0x40 ≤ off) (hi : off ≤ 0x7C) (ha : off % 4 = 0) (s : State) :
    hostRead off 4 s = blkWord s (off - 0x40) := by
  unfold hostRead readWord
  rw [if_pos ⟨rfl, ha⟩, if_neg (by omega), if_neg (by omega), if_neg (by omega), if_pos ⟨lo, hi⟩]
  rfl

theorem hostRead_blkByte {off : Nat} (lo : 0x40 ≤ off) (hi : off ≤ 0x7F) (s : State) :
    hostRead off 1 s = (blkByte s (off - 0x40)).setWidth 32 := by
  unfold hostRead readByte
  rw [if_neg (by omega), if_pos rfl, if_pos ⟨lo, hi⟩]
  rfl

theorem hostWrite_blkWord {off : Nat} (lo : 0x40 ≤ off) (hi : off ≤ 0x7C) (ha : off % 4 = 0) (v : Word) (s : State) :
    hostWrite off 4 v s = .next (writeBlk off (bytesBe32 v) s) := by
  unfold hostWrite
  rw [if_neg (by omega), if_pos ⟨rfl, ha, lo, hi⟩]

theorem hostWrite_blkByte {off : Nat} (lo : 0x40 ≤ off) (hi : off ≤ 0x7F) (v : Word) (s : State) :
    hostWrite off 1 v s = .next (writeBlk off [v.setWidth 8] s) := by
  unfold hostWrite
  rw [if_neg (by omega), if_neg (by omega), if_pos ⟨rfl, lo, hi⟩]

theorem writeBlk_ready {s : State} (hb : s.busy = false) (off : Nat) (bs : List Byte) :
    writeBlk off bs s = storeBytes off bs s := by simp [writeBlk, hb]

/-- A store leaves every byte outside its range. -/
theorem read_storeBytes_outside {off a : Nat} {bs : List Byte} {s : State} (h : s.blk.rising)
    (ha : a < off ∨ off + bs.length ≤ a) : (storeBytes off bs s).blk.read a = s.blk.read a := by
  rw [storeBytes_blk, Memory.read_writeBytes s.blk off bs a h, if_neg (by omega)]

/-- A store leaves the byte `k` of the list at its `k`-th offset. -/
theorem blkByte_storeBytes_inside {off k : Nat} {bs : List Byte} {s : State} (h : s.blk.rising) (lo : 0x40 ≤ off)
    (hk : k < bs.length) : blkByte (storeBytes off bs s) (off - 0x40 + k) = bs.getD k 0 := by
  have hoff : blkBase + (off - 0x40 + k) = off + k := by unfold blkBase; omega
  rw [blkByte_storeBytes off bs s _ h, hoff, if_pos (by omega), Nat.add_sub_cancel_left]

/-- The lanes of a stored Word, at its four bytes. -/
theorem blkByte_storeWord {off k : Nat} {s : State} (h : s.blk.rising) (lo : 0x40 ≤ off) (v : Word) (hk : k < 4) :
    blkByte (storeBytes off (bytesBe32 v) s) (off - 0x40 + k) = laneOf v k := by
  rw [blkByte_storeBytes_inside h lo hk]
  simpa using flatMap_bytesBe32_getD [v] (i := 0) (by simp) hk

/-- R73: a Word stored in BLK is the Word read there. -/
theorem blkWord_storeWord {off : Nat} {s : State} (h : s.blk.rising) (lo : 0x40 ≤ off) (v : Word) :
    blkWord (storeBytes off (bytesBe32 v) s) (off - 0x40) = v := by
  have h0 := blkByte_storeWord h lo v (k := 0) (by decide)
  rw [Nat.add_zero] at h0
  rw [blkWord, h0, blkByte_storeWord h lo v (by decide), blkByte_storeWord h lo v (by decide),
    blkByte_storeWord h lo v (by decide), be32_laneOf]

/-- Settles O34: a stored Word is its four lanes, assembled again by the read. -/
theorem blkWordWriteReadsBack : Obligations.BlkWordWriteReadsBack := by
  intro s o v hwf hb ha lo hi
  refine ⟨storeBytes o (bytesBe32 v) s, by rw [hostWrite_blkWord lo hi ha, writeBlk_ready hb], rfl, ?_,
    fun k hk => ?_, fun a hout => read_storeBytes_outside hwf.1 hout⟩
  · rw [hostRead_blkWord lo hi ha, blkWord_storeWord hwf.1 lo]
  · rw [hostRead_blkByte (by omega) (by omega), Nat.sub_add_comm lo, blkByte_storeWord hwf.1 lo v hk]
    rfl

/-- Settles O35: the store of one byte. -/
theorem blkByteWriteReadsBack : Obligations.BlkByteWriteReadsBack := by
  intro s o v hwf hb lo hi
  refine ⟨storeBytes o [v.setWidth 8] s, by rw [hostWrite_blkByte lo hi, writeBlk_ready hb], rfl, ?_,
    fun a hne => read_storeBytes_outside hwf.1 (by simp; omega)⟩
  have hbyte := blkByte_storeBytes_inside (k := 0) (bs := [v.setWidth 8]) hwf.1 lo (by simp)
  rw [Nat.add_zero] at hbyte
  rw [hostRead_blkByte lo hi, hbyte]
  simp
  omega

end Sys2Proof.Machine
end

section
/-! SUPPORT. The register space (20_memory.md): what a host read returns and leaves alone, how bytes and Words agree,
what a pending command keeps, and the host's turn in a step. -/

namespace Sys2Proof.Machine

/-! ## What a read returns (R64, R70) -/

theorem flagAt_toNat (b : Bool) {i : Nat} (hi : i < 32) : (flagAt b i).toNat = b.toNat <<< i := by
  cases b
  · simp [flagAt]
  · simpa [flagAt, Nat.shiftLeft_eq] using Nat.mod_eq_of_lt (Nat.pow_lt_pow_right one_lt_two hi)

/-- R35: STATUS as a number. Each field lies above all the later ones, so their disjunction is their sum. -/
theorem statusWord_toNat (s : State) :
    (statusWord s).toNat = s.errovf.toNat * 2 ^ 8 + s.errcode.toNat * 2 ^ 4 + s.err.toNat * 2 ^ 3 +
      (s.mode == .done).toNat * 2 ^ 2 + (s.mode == .opened).toNat * 2 + s.busy.toNat := by
  have hcode : s.errcode.toNat < 2 ^ 4 := s.errcode.isLt
  have hcodeField : (s.errcode.setWidth 32 <<< 4).toNat = s.errcode.toNat <<< 4 := by
    simp [Nat.shiftLeft_eq]; omega
  have herr := s.err.toNat_le
  have hdone := (s.mode == .done).toNat_le
  have hopen := (s.mode == .opened).toNat_le
  have hbusy := s.busy.toNat_le
  simp only [statusWord, BitVec.toNat_or, hcodeField, flagAt_toNat, Nat.reduceLT, Nat.or_assoc, Nat.shiftLeft_zero]
  rw [← Nat.shiftLeft_add_eq_or_of_lt (i := 1), ← Nat.shiftLeft_add_eq_or_of_lt (i := 2),
    ← Nat.shiftLeft_add_eq_or_of_lt (i := 3), ← Nat.shiftLeft_add_eq_or_of_lt (i := 4),
    ← Nat.shiftLeft_add_eq_or_of_lt (i := 8)]
  all_goals omega

@[simp] theorem hostRead_countLo (s : State) : hostRead 0x08 4 s = countLo s := rfl

@[simp] theorem hostRead_countHi (s : State) : hostRead 0x0C 4 s = countHi s := rfl

theorem countLo_toNat (s : State) : (countLo s).toNat = s.count.toNat % 2 ^ 32 := by
  simp [countLo, BitVec.extractLsb'_toNat]

theorem countHi_toNat (s : State) : (countHi s).toNat = s.count.toNat / 2 ^ 32 := by
  have hcount := s.count.isLt
  rw [countHi, BitVec.extractLsb'_toNat, Nat.shiftRight_eq_div_pow]
  omega

/-- R61, R70: a 1-byte read outside the BLK and DIGEST windows gives 0. -/
theorem hostRead_byte_outside {off : Nat} (hblk : off < 0x40 ∨ 0x7F < off) (hdigest : off < 0x80 ∨ 0x9F < off)
    (s : State) : hostRead off 1 s = 0 := by
  unfold hostRead readByte
  rw [if_neg (by omega), if_pos rfl, if_neg (by omega), if_neg (by omega)]
  rfl

/-- R61, R70: a Word read between COUNT_HI and BLK or above DIGEST gives 0. -/
theorem hostRead_word_reserved {off : Nat} (h : 0x10 ≤ off ∧ off ≤ 0x3F ∨ 0xA0 ≤ off) (s : State) :
    hostRead off 4 s = 0 := by
  unfold hostRead readWord
  split
  · rw [if_neg (by omega), if_neg (by omega), if_neg (by omega), if_neg (by omega), if_neg (by omega)]
  · rfl

theorem hostRead_reserved {off : Nat} (h : 0x10 ≤ off ∧ off ≤ 0x3F ∨ 0xA0 ≤ off) (width : Nat) (s : State) :
    hostRead off width s = 0 := by
  by_cases hbyte : width = 1
  · exact hbyte ▸ hostRead_byte_outside (by omega) (by omega) s
  · by_cases hword : width = 4
    · exact hword ▸ hostRead_word_reserved h s
    · exact hostRead_illFormed (by omega) hbyte s

/-- Settles O31: a clause for each register, the reserved offsets and the ill-formed reads. -/
theorem hostReadReturnsTheRegister : Obligations.HostReadReturnsTheRegister := by
  intro off width s
  refine ⟨?cmd, ?status, ?countLo, ?countHi, ?blkWord, fun lo hi => hostRead_blkByte lo hi s, ?digestWord,
    ?digestByte, fun h => hostRead_reserved (by omega) width s, ?lowByte, ?unaligned, ?badWidth⟩
  case cmd => rintro rfl; rfl
  case status => rintro rfl; rw [hostRead_status]; exact statusWord_toNat s
  case countLo => rintro rfl; rw [hostRead_countLo, countLo_toNat]
  case countHi => rintro rfl; rw [hostRead_countHi, countHi_toNat]
  case blkWord =>
    intro ha lo hi
    rw [hostRead_blkWord lo hi ha, blkWord, show off - 0x40 + 1 = off - 0x3F by omega,
      show off - 0x40 + 2 = off - 0x3E by omega, show off - 0x40 + 3 = off - 0x3D by omega]
  case digestWord => intro ha lo hi; rw [hostRead_digestWord lo hi ha, digestWord]
  case digestByte =>
    intro lo hi
    rw [hostRead_digestByte lo hi, digestByte]
    split <;> rfl
  case lowByte => rintro rfl hlow; exact hostRead_byte_outside (by omega) (by omega) s
  case unaligned => intro hw ha; exact hostRead_illFormed (by omega) (by omega) s
  case badWidth => intro hbyte hword; exact hostRead_illFormed (by omega) hbyte s

/-! ## Bytes and Words of a window (R63) -/

theorem laneOf_blkWord (s : State) (j : Nat) {k : Nat} (hk : k < 4) : laneOf (blkWord s j) k = blkByte s (j + k) := by
  rw [blkWord, laneOf_be32 _ _ _ _ k hk]
  interval_cases k <;> rfl

/-- In MODE = DONE by the digest's byte order; in every other mode both are 0. -/
theorem laneOf_digestWord (s : State) {i k : Nat} (hi : i < 8) (hk : k < 4) :
    laneOf (digestWord s i) k = digestByte s (4 * i + k) := by
  unfold digestWord digestByte
  split
  · exact (digestBytes_getD s.hash hi hk).symm
  · simp [laneOf]

/-- Settles O33: for each window, a lane of its Word is its byte. -/
theorem byteLanesAreBigEndian : Obligations.ByteLanesAreBigEndian := by
  intro s o k ha hk hwindow
  change hostRead (o + k) 1 s = (laneOf (hostRead o 4 s) k).setWidth 32
  obtain ⟨lo, hi⟩ | ⟨lo, hi⟩ := hwindow
  · rw [hostRead_blkByte (by omega) (by omega), hostRead_blkWord lo hi ha, laneOf_blkWord s _ hk, Nat.sub_add_comm lo]
  · rw [hostRead_digestByte (by omega) (by omega), hostRead_digestWord lo hi ha,
      laneOf_digestWord s (by omega) hk, show 4 * ((o - 0x80) / 4) + k = o + k - 0x80 by omega]

/-! ## The host's turn (R80) -/

/-- R80: when the engine's step is not due, a step runs the host's next line. -/
theorem step_eq_runLine {s : State} {l : HostLine} (hturn : engineTurn s = false)
    (hline : s.host.program[s.host.pc]? = some l) : step s = runLine l (advanceHost (tick s)) := by
  simp [step, hostTurn, hturn, hline]

/-- No register shows the latency or the host's position. -/
theorem hostRead_advanceHost_tick (off width : Nat) (s : State) :
    hostRead off width (advanceHost (tick s)) = hostRead off width s := rfl

theorem runLine_read {off : Nat} (hoff : off ≤ 0xFF) (width : Nat) (s : State) :
    runLine (.read off width) s = .next (noteRead (hostRead off width s) s) := by
  simp [runLine, inSpace, hoff]

/-- Settles O36: the turn that the read takes is not seen by it. -/
theorem hostReadsHaveNoSideEffects : Obligations.HostReadsHaveNoSideEffects := by
  intro s off width hturn hline hoff
  rw [step_eq_runLine hturn hline, runLine_read hoff, hostRead_advanceHost_tick]
  rfl

/-- R190: the issue of a word that decodes is its command's meaning, which tests BUSY again. -/
theorem command_of_decode {c : Word} {i : Instr} (h : decode c = .ok i) (s : State) : command c s = exec i s := by
  rw [command, h, exec_eq_unlessBusy]
  cases hb : s.busy
  · simp [unlessBusy, exec_eq_unlessBusy, hb]
  · simp [unlessBusy, hb]

/-- Settles O48: the line is a CMD write, and the CMD write the issue of its word. -/
theorem stepRunsTheDecodedCommand : Obligations.StepRunsTheDecodedCommand := by
  intro s c i hturn hline hdecode
  calc step s = runLine (.write 0x00 4 c) (advanceHost (tick s)) := step_eq_runLine hturn hline
    _ = command c (advanceHost (tick s)) := rfl
    _ = exec i (advanceHost (tick s)) := command_of_decode hdecode _

/-- Settles O37, on both ends of the window. -/
theorem platformAddressesSelectOffsets : Obligations.PlatformAddressesSelectOffsets := by
  intro addr off
  unfold busOffset
  split
  · rw [Option.some.injEq]; omega
  · simp only [reduceCtorEq, false_iff]; omega

/-! ## A pending command (R77, R83) -/

/-- R77: while BUSY = 1 a write does nothing but record an error. -/
theorem WriteEffect.erred_of_busy {s t : State} (he : WriteEffect s t) (hb : s.busy = true) :
    ∃ e, t = recordError e s := by
  cases he with
  | erred e => exact ⟨e, rfl⟩
  | commanded ready => simp [hb] at ready
  | stored ready => simp [hb] at ready

/-- Settles O28: a completion and a reset end BUSY, a write is rejected, and no other host line writes the block. -/
theorem pendingCommandKeepsItsOperands : Obligations.PendingCommandKeepsItsOperands := by
  intro s t hb h ht
  have hdelay (turn : s.busy = false ∨ s.delay ≠ 0) : s.delay - 1 + 1 = s.delay :=
    Nat.sub_one_add_one (turn.resolve_left (by simp [hb]))
  cases step_effect h with
  | blockDone | finalDone | wasReset => simp at ht
  | wrote turn effect =>
    obtain ⟨e, rfl⟩ := effect.erred_of_busy hb
    simpa using hdelay turn
  | idled turn | read turn | passed turn | jumped turn => exact ⟨rfl, rfl, rfl, rfl, rfl, hdelay turn⟩

end Sys2Proof.Machine
end

section
/-! SUPPORT. Command words (30_encoding.md): the decoder inverts the encoder, the legality predicate and the opcode map
agree with it, and the assembler's pseudo-instructions issue its words. -/

namespace Sys2Proof.Machine

/-! ## The fields of a word as numbers (R100, R101) -/

theorem opField_toNat (c : Word) : (opField c).toNat = c.toNat % 16 := by
  simp [opField, BitVec.extractLsb'_toNat]

theorem nField_toNat (c : Word) : (nField c).toNat = c.toNat / 2 ^ 8 % 2 ^ 6 := by
  simp [nField, BitVec.extractLsb'_toNat, Nat.shiftRight_eq_div_pow]

theorem opField_eq_iff (c : Word) (k : BitVec 4) : opField c = k ↔ c.toNat % 16 = k.toNat := by
  rw [← BitVec.toNat_inj, opField_toNat]

/-- R103: bits [31:4] are clear exactly if nothing lies above OP. -/
theorem plainReservedClear_iff (c : Word) : plainReservedClear c = true ↔ c.toNat / 16 = 0 := by
  have hc : c.toNat < 2 ^ 32 := c.isLt
  rw [plainReservedClear, beq_iff_eq, ← BitVec.toNat_inj, BitVec.extractLsb'_toNat, Nat.shiftRight_eq_div_pow]
  change c.toNat / 16 % 2 ^ 28 = 0 ↔ _
  omega

/-- R103: bits [7:4] and [31:14] are clear. -/
theorem finalReservedClear_iff (c : Word) :
    finalReservedClear c = true ↔ c.toNat / 16 % 16 = 0 ∧ c.toNat / 2 ^ 14 = 0 := by
  have hc : c.toNat < 2 ^ 32 := c.isLt
  simp only [finalReservedClear, Bool.and_eq_true, beq_iff_eq, ← BitVec.toNat_inj, BitVec.extractLsb'_toNat,
    Nat.shiftRight_eq_div_pow]
  change c.toNat / 16 % 16 = 0 ∧ c.toNat / 2 ^ 14 % 2 ^ 18 = 0 ↔ _
  omega

/-- R102: the number of a FINAL word; N lies above OP, so the sum stays within the Word. -/
theorem encode_final_toNat (n : BitVec 6) : (encode (.final n)).toNat = 3 + n.toNat * 2 ^ 8 := by
  have hn : n.toNat < 2 ^ 6 := n.isLt
  have hshift : (n.setWidth 32 <<< 8).toNat = n.toNat * 2 ^ 8 := by
    simp [Nat.shiftLeft_eq]; omega
  rw [encode, BitVec.toNat_add, hshift]
  exact Nat.mod_eq_of_lt (show 3 + n.toNat * 2 ^ 8 < 2 ^ 32 by omega)

/-! ## Decoding and encoding (R100 to R105) -/

/-- A word with nothing above OP is its OP. -/
theorem eq_ofNat_of_plain {c : Word} {k : Nat} (hop : (opField c).toNat = k) (hclear : plainReservedClear c = true) :
    c = BitVec.ofNat 32 k := by
  rw [plainReservedClear_iff] at hclear
  rw [opField_toNat] at hop
  rw [← show c.toNat = k by omega, BitVec.ofNat_toNat, BitVec.setWidth_eq]

/-- A word with OP = 3 and its reserved bits clear is the FINAL word of its field N. -/
theorem eq_encode_final {c : Word} (hop : (opField c).toNat = 3) (hclear : finalReservedClear c = true) :
    c = encode (.final (nField c)) := by
  obtain ⟨hlow, hhigh⟩ := (finalReservedClear_iff c).1 hclear
  rw [opField_toNat] at hop
  apply BitVec.eq_of_toNat_eq
  rw [encode_final_toNat, nField_toNat]
  omega

theorem opField_encode_final (n : BitVec 6) : opField (encode (.final n)) = 3 := by
  rw [opField_eq_iff, encode_final_toNat]
  change _ = 3
  omega

theorem nField_encode_final (n : BitVec 6) : nField (encode (.final n)) = n := by
  have hn : n.toNat < 2 ^ 6 := n.isLt
  apply BitVec.eq_of_toNat_eq
  rw [nField_toNat, encode_final_toNat]
  omega

theorem finalReservedClear_encode_final (n : BitVec 6) : finalReservedClear (encode (.final n)) = true := by
  have hn : n.toNat < 2 ^ 6 := n.isLt
  rw [finalReservedClear_iff, encode_final_toNat]
  omega

theorem decode_encode (i : Instr) : decode (encode i) = .ok i := by
  cases i with
  | nop | init | block | clrerr => rfl
  | final n => simp [decode, opField_encode_final, finalReservedClear_encode_final, nField_encode_final]

theorem eq_encode_of_decode {c : Word} {i : Instr} (h : decode c = .ok i) : c = encode i := by
  unfold decode at h
  split at h
  case h_1 hop | h_2 hop | h_3 hop | h_5 hop =>
    obtain ⟨hclear, rfl⟩ := decodePlain_ok h
    exact eq_ofNat_of_plain hop hclear
  case h_4 hop =>
    split at h
    case isTrue hclear =>
      cases h
      exact eq_encode_final hop hclear
    case isFalse => cases h
  case h_6 => cases h

theorem decode_eq_ok_iff (c : Word) (i : Instr) : decode c = .ok i ↔ c = encode i :=
  ⟨eq_encode_of_decode, fun h => h ▸ decode_encode i⟩

/-- Settles O2: each command's word decodes to it, and each word that decodes is the command's word. -/
theorem decodeInvertsEncode : Obligations.DecodeInvertsEncode := decode_eq_ok_iff

/-! ## The legality predicate (R103) -/

/-- R103's formula on numbers. -/
theorem legal_iff (c : Word) : legal c = true ↔
    ((c.toNat % 16 = 0 ∨ c.toNat % 16 = 1 ∨ c.toNat % 16 = 2 ∨ c.toNat % 16 = 4) ∧ c.toNat / 16 = 0) ∨
      (c.toNat % 16 = 3 ∧ c.toNat / 16 % 16 = 0 ∧ c.toNat / 2 ^ 14 = 0) := by
  simp only [legal, Bool.or_eq_true, Bool.and_eq_true, beq_iff_eq, opField_eq_iff, plainReservedClear_iff,
    finalReservedClear_iff, or_assoc]
  rfl

theorem legal_encode (i : Instr) : legal (encode i) = true := by
  cases i with
  | nop | init | block | clrerr => rfl
  | final n => simp [legal, opField_encode_final, finalReservedClear_encode_final]

theorem exists_eq_encode_of_legal {c : Word} (h : legal c = true) : ∃ i, c = encode i := by
  simp only [legal, Bool.or_eq_true, Bool.and_eq_true, beq_iff_eq] at h
  obtain ⟨((hop | hop) | hop) | hop, hclear⟩ | ⟨hop, hclear⟩ := h
  · exact ⟨.nop, eq_ofNat_of_plain (congrArg BitVec.toNat hop) hclear⟩
  · exact ⟨.init, eq_ofNat_of_plain (congrArg BitVec.toNat hop) hclear⟩
  · exact ⟨.block, eq_ofNat_of_plain (congrArg BitVec.toNat hop) hclear⟩
  · exact ⟨.clrerr, eq_ofNat_of_plain (congrArg BitVec.toNat hop) hclear⟩
  · exact ⟨.final (nField c), eq_encode_final (congrArg BitVec.toNat hop) hclear⟩

/-- Settles O3: the legal words are the commands' words. -/
theorem legalWordsAreTheDecodedOnes : Obligations.LegalWordsAreTheDecodedOnes := by
  intro c
  refine ⟨legal_iff c, fun h => ?_, fun ⟨i, hi⟩ => ?_⟩
  · obtain ⟨i, rfl⟩ := exists_eq_encode_of_legal h
    exact ⟨i, decode_encode i⟩
  · exact eq_encode_of_decode hi ▸ legal_encode i

/-! ## The opcode map (R102) -/

/-- R102: a row without an operand masks nothing out. -/
theorem and_fullMask (c : Word) : c &&& 0xFFFFFFFF = c := BitVec.and_allOnes

/-- R102: FINAL's mask keeps OP and the reserved bits, so what it matches is a FINAL word. -/
theorem eq_encode_final_of_masked {c : Word} (h : c &&& 0xFFFFC0FF = 0x00000003) : c = encode (.final (nField c)) := by
  have hfield (start len : Nat) (hkept : (0xFFFFC0FF : Word).extractLsb' start len = BitVec.allOnes len) :
      c.extractLsb' start len = (0x00000003 : Word).extractLsb' start len := by
    rw [← h, BitVec.extractLsb'_and, hkept, BitVec.and_allOnes]
  have hop : opField c = 3 := hfield 0 4 rfl
  have hlow : c.extractLsb' 4 4 = 0 := hfield 4 4 rfl
  have hhigh : c.extractLsb' 14 18 = 0 := hfield 14 18 rfl
  exact eq_encode_final (congrArg BitVec.toNat hop) (by simp [finalReservedClear, hlow, hhigh])

/-- Settles O4: a full mask compares the word itself; FINAL's mask leaves N open, which the word then gives. -/
theorem opcodeMapSelectsCommands : Obligations.OpcodeMapSelectsCommands := by
  intro c
  simp only [and_fullMask, decode_eq_ok_iff]
  refine ⟨Iff.rfl, Iff.rfl, Iff.rfl, ⟨fun h => ⟨nField c, eq_encode_final_of_masked h⟩, ?_⟩, Iff.rfl, ?_⟩
  · rintro ⟨n, rfl⟩
    exact final_masked n
  · rintro n rfl
    exact ⟨(nField_encode_final n).symm, rfl⟩

/-- Settles O1: a command's word is its encoding; a reserved word is refused by evaluation. -/
theorem decodeReadsSpecWords : Obligations.DecodeReadsSpecWords :=
  ⟨decode_encode .nop, decode_encode .init, decode_encode .block, decode_encode (.final 0), decode_encode (.final 3),
    decode_encode (.final 63), decode_encode .clrerr, rfl, rfl, rfl, rfl, rfl, rfl, rfl⟩

/-! ## The assembler (R107) -/

/-- R107: a byte count that FINAL takes keeps its value in the field N. -/
theorem setWidth_ofNat_six {n : Nat} (h : n ≤ 63) : (BitVec.ofNat 6 n).setWidth 32 = BitVec.ofNat 32 n := by
  apply BitVec.eq_of_toNat_eq
  simp only [BitVec.toNat_setWidth, BitVec.toNat_ofNat]
  omega

/-- Settles O5: only FINAL computes its word, from a count of at most 63. -/
theorem pseudoCommandsIssueTheirCommand : Obligations.PseudoCommandsIssueTheirCommand := by
  intro pos
  refine ⟨rfl, rfl, rfl, rfl, fun n hwf => ?_⟩
  have hn : n ≤ 63 := by simpa [Pseudo.wf] using hwf
  rw [Pseudo.expand, wr32, encode, setWidth_ofNat_six hn]

end Sys2Proof.Machine
end

section
/-! SUPPORT. The datapath's primitives (40_primitives.md): which operand bits each bit of a result is made of. -/

namespace Sys2Proof.Machine

/-! ## Shifts (R121, R122) -/

/-- R121: past bit 31 the operand reads as 0, so the zero fill needs no case of its own. -/
@[simp] theorem getLsbD_shr (x : Word) (n i : Nat) : (shr x n).getLsbD i = x.getLsbD (i + n) := by
  rw [shr, BitVec.getLsbD_ushiftRight, Nat.add_comm]

theorem getLsbD_shl (x : Word) (n : Nat) {i : Nat} (hi : i < 32) :
    (shl x n).getLsbD i = (decide (n ≤ i) && x.getLsbD (i - n)) := by
  rw [shl, BitVec.getLsbD_shiftLeft]
  simp only [hi, decide_true, Bool.true_and, ← decide_not, Nat.not_lt]

theorem toNat_shr (x : Word) (n : Nat) : (shr x n).toNat = x.toNat / 2 ^ n := by
  rw [shr, BitVec.toNat_ushiftRight, Nat.shiftRight_eq_div_pow]

theorem toNat_shl (x : Word) (n : Nat) : (shl x n).toNat = x.toNat * 2 ^ n % 2 ^ 32 := by
  rw [shl, BitVec.toNat_shiftLeft, Nat.shiftLeft_eq]

/-- A Word has no bit past 31, so reading within bit 31 and reading anywhere are the same. -/
theorem getLsbD_eq_and_le (x : Word) (j : Nat) : x.getLsbD j = (decide (j ≤ 31) && x.getLsbD j) := by
  rcases Nat.lt_or_ge j 32 with hj | hj
  · simp [Nat.le_of_lt_succ hj]
  · simp [BitVec.getLsbD_of_ge x j hj]

/-- Settles O38: the shifts' laws, and that a bit brought from past bit 31 is 0. -/
theorem shiftsFillWithZeros : Obligations.ShiftsFillWithZeros := by
  intro x n _
  refine ⟨toNat_shr x n, toNat_shl x n, fun i hi => ⟨?_, getLsbD_shl x n hi⟩⟩
  rw [getLsbD_shr, ← getLsbD_eq_and_le]

/-! ## Rotations (R123, R124) -/

/-- R123: below bit 32 - n the right shift gives the bit, from there on the left shift gives the bits that wrapped. -/
theorem getLsbD_rotr (x : Word) {n i : Nat} (hn : n < 32) (hi : i < 32) :
    (rotr x n).getLsbD i = x.getLsbD ((i + n) % 32) := by
  rw [rotr, BitVec.getLsbD_or, getLsbD_shr, getLsbD_shl x _ hi]
  rcases Nat.lt_or_ge (i + n) 32 with hstays | hwraps
  · have hbelow : ¬ 32 - n ≤ i := by omega
    simp [hbelow, Nat.mod_eq_of_lt hstays]
  · have hfrom : 32 - n ≤ i := by omega
    have hbit : i - (32 - n) = (i + n) % 32 := by omega
    simp [BitVec.getLsbD_of_ge x _ hwraps, hfrom, hbit]

/-- R124: the two rotations are the same two shifts, with the amounts exchanged. -/
theorem rotl_eq_rotr (x : Word) {n : Nat} (hn : n ≤ 32) : rotl x n = rotr x (32 - n) := by
  rw [rotl, rotr, Nat.sub_sub_self hn, BitVec.or_comm]

theorem getLsbD_rotl (x : Word) {n i : Nat} (hpos : 1 ≤ n) (hn : n ≤ 32) (hi : i < 32) :
    (rotl x n).getLsbD i = x.getLsbD ((i + 32 - n) % 32) := by
  rw [rotl_eq_rotr x hn, getLsbD_rotr x (by omega) hi, ← Nat.add_sub_assoc hn]

/-- Settles O39: a right rotation bit by bit, and a left rotation as a right one. -/
theorem rotationsMoveEveryBit : Obligations.RotationsMoveEveryBit := by
  intro x n hpos hn
  exact ⟨fun i hi => getLsbD_rotr x (by omega) hi, fun i hi => getLsbD_rotl x hpos (by omega) hi,
    rotl_eq_rotr x (by omega)⟩

/-! ## The mixing functions (R127 to R132) -/

/-- R127, R128: the shape of a small sigma, two rotations and a shift. -/
theorem getLsbD_rotr_xor_rotr_xor_shr (x : Word) {a b i : Nat} (c : Nat) (ha : a < 32) (hb : b < 32) (hi : i < 32) :
    (rotr x a ^^^ rotr x b ^^^ shr x c).getLsbD i =
      (x.getLsbD ((i + a) % 32) ^^ x.getLsbD ((i + b) % 32) ^^ x.getLsbD (i + c)) := by
  simp only [BitVec.getLsbD_xor, getLsbD_rotr x ha hi, getLsbD_rotr x hb hi, getLsbD_shr]

/-- R129, R130: the shape of a big sigma, three rotations. -/
theorem getLsbD_rotr_xor_rotr_xor_rotr (x : Word) {a b c i : Nat} (ha : a < 32) (hb : b < 32) (hc : c < 32)
    (hi : i < 32) :
    (rotr x a ^^^ rotr x b ^^^ rotr x c).getLsbD i =
      (x.getLsbD ((i + a) % 32) ^^ x.getLsbD ((i + b) % 32) ^^ x.getLsbD ((i + c) % 32)) := by
  simp only [BitVec.getLsbD_xor, getLsbD_rotr x ha hi, getLsbD_rotr x hb hi, getLsbD_rotr x hc hi]

/-- Settles O40: the small sigmas have one shape and the big sigmas the other, each at its own amounts. -/
theorem sigmaFunctionsBitwise : Obligations.SigmaFunctionsBitwise := by
  intro x i hi
  exact ⟨getLsbD_rotr_xor_rotr_xor_shr x 3 (by decide) (by decide) hi,
    getLsbD_rotr_xor_rotr_xor_shr x 10 (by decide) (by decide) hi,
    getLsbD_rotr_xor_rotr_xor_rotr x (by decide) (by decide) (by decide) hi,
    getLsbD_rotr_xor_rotr_xor_rotr x (by decide) (by decide) (by decide) hi⟩

theorem getLsbD_choice (x y z : Word) {i : Nat} (hi : i < 32) :
    (choice x y z).getLsbD i = if x.getLsbD i then y.getLsbD i else z.getLsbD i := by
  rw [choice, BitVec.getLsbD_xor, BitVec.getLsbD_and, BitVec.getLsbD_and, BitVec.getLsbD_not]
  cases x.getLsbD i <;> simp [hi]

/-- R132: on one bit, the exclusive or of the three pairwise conjunctions is the majority. -/
theorem xor_pairs_iff_two_le (a b c : Bool) :
    ((a && b) ^^ (a && c) ^^ (b && c)) = true ↔ 2 ≤ a.toNat + b.toNat + c.toNat := by
  revert a b c
  decide

theorem getLsbD_majority_iff (x y z : Word) (i : Nat) :
    (majority x y z).getLsbD i = true ↔ 2 ≤ (x.getLsbD i).toNat + (y.getLsbD i).toNat + (z.getLsbD i).toNat := by
  simpa [majority] using xor_pairs_iff_two_le (x.getLsbD i) (y.getLsbD i) (z.getLsbD i)

/-- R132: exchanging x and y exchanges the last two pairs. -/
theorem majority_swap_left (x y z : Word) : majority x y z = majority y x z := by
  rw [majority, majority, BitVec.and_comm x y, BitVec.xor_assoc, BitVec.xor_comm (x &&& z), ← BitVec.xor_assoc]

/-- R132: exchanging y and z exchanges the first two pairs. -/
theorem majority_swap_right (x y z : Word) : majority x y z = majority x z y := by
  rw [majority, majority, BitVec.and_comm y z, BitVec.xor_comm (x &&& y)]

/-- Settles O41: Ch by the value of the selecting bit, Maj by the truth table of one bit and its two exchanges. -/
theorem choiceAndMajorityBitwise : Obligations.ChoiceAndMajorityBitwise := by
  intro x y z
  exact ⟨fun i hi => getLsbD_choice x y z hi, fun i _ => getLsbD_majority_iff x y z i, majority_swap_left x y z,
    majority_swap_right x y z⟩

end Sys2Proof.Machine
end

section
/-! SUPPORT. The datapath (41_compression.md): the round-constant ROM, the message schedule, the rounds of a
compression, the padding unit and the digest (O42 to O47, O56). -/

namespace Sys2Proof.Machine

/-! ## Bytes of Words (R8) -/

theorem laneOf_toNat (v : Word) (k : Nat) : (laneOf v k).toNat = v.toNat / 2 ^ (24 - 8 * k) % 256 := by
  rw [laneOf, BitVec.extractLsb'_toNat, Nat.shiftRight_eq_div_pow]

theorem toNat_eq_sum_lanes (v : Word) : v.toNat =
    (laneOf v 0).toNat * 2 ^ 24 + (laneOf v 1).toNat * 2 ^ 16 + (laneOf v 2).toNat * 2 ^ 8 + (laneOf v 3).toNat := by
  simp only [laneOf_toNat]
  omega

/-- R8, R153: four bytes as a Word, in base 256; the lanes of the Word are the bytes. -/
theorem be32_toNat (b0 b1 b2 b3 : Byte) : (be32 b0 b1 b2 b3).toNat =
    b0.toNat * 2 ^ 24 + b1.toNat * 2 ^ 16 + b2.toNat * 2 ^ 8 + b3.toNat := by
  rw [toNat_eq_sum_lanes]
  simp [laneOf_be32]

/-- R8: byte `j` of the eight bytes of a 64-bit value, the high Word's four first. -/
theorem bytesBe64_getD_toNat (v : BitVec 64) {j : Nat} (hj : j < 8) :
    ((bytesBe64 v).getD j 0).toNat = v.toNat / 2 ^ (8 * (7 - j)) % 256 := by
  interval_cases j <;> simp [bytesBe64, bytesBe32, laneOf_toNat, Nat.shiftRight_eq_div_pow] <;> omega

/-! ## The round-constant ROM (R150) -/

/-- Below the `t`-th number of those that pass a filter, `t` numbers pass it. -/
theorem count_getD_filter_range (p : Nat → Prop) [DecidablePred p] {n t : Nat}
    (ht : t < ((List.range n).filter p).length) : Nat.count p (((List.range n).filter p).getD t 0) = t := by
  induction n with
  | zero => simp at ht
  | succ n ih =>
    rw [List.range_succ, List.filter_append] at ht ⊢
    rcases Nat.lt_or_ge t ((List.range n).filter p).length with hold | hnew
    · rw [List.getD_append _ _ _ _ hold, ih hold]
    · have hp : p n := by
        by_contra hp
        rw [List.filter_singleton, decide_eq_false hp, cond_false, List.append_nil] at ht
        omega
      rw [List.filter_singleton, decide_eq_true hp, cond_true] at ht ⊢
      have hlast : t = ((List.range n).filter p).length := by
        rw [List.length_append, List.length_singleton] at ht
        omega
      rw [List.getD_append_right _ _ _ _ hnew, hlast, Nat.sub_self, List.getD_cons_zero, Nat.count,
        List.countP_eq_length_filter]

/-- Trial division: a test for primes that the kernel evaluates fast. -/
def passesTrialDivision (n : Nat) : Bool := 2 ≤ n && (List.range' 2 16).all fun d => d == n || n % d != 0

/-- A composite number has a divisor up to its square root, so below 18^2 trial division by 2 to 17 decides. -/
theorem prime_iff_passesTrialDivision {n : Nat} (hn : n < 18 ^ 2) : n.Prime ↔ passesTrialDivision n = true := by
  simp only [passesTrialDivision, Bool.and_eq_true, decide_eq_true_eq, List.all_eq_true, List.mem_range'_1,
    Bool.or_eq_true, beq_iff_eq, bne_iff_ne, ne_eq]
  constructor
  · intro hp
    refine ⟨hp.two_le, fun d hd => ?_⟩
    by_contra! ⟨hne, hmod⟩
    rcases (Nat.dvd_prime hp).mp (Nat.dvd_of_mod_eq_zero hmod) with hone | hself
    · omega
    · exact hne hself
  · rintro ⟨htwo, hall⟩
    have hfac : n.minFac.Prime := Nat.minFac_prime (by omega)
    by_contra hp
    have hsq : n.minFac ^ 2 ≤ n := Nat.minFac_sq_le_self (by omega) hp
    have hlt : n.minFac < 18 := lt_of_pow_lt_pow_left₀ 2 (by omega) (by omega)
    rcases hall n.minFac ⟨hfac.two_le, by omega⟩ with hself | hndvd
    · exact hp (hself ▸ hfac)
    · exact hndvd (Nat.mod_eq_zero_of_dvd (Nat.minFac_dvd n))

/-- The first 64 primes, the primes of R150. -/
def romPrimes : List Nat :=
  [2, 3, 5, 7, 11, 13, 17, 19, 23, 29, 31, 37, 41, 43, 47, 53,
   59, 61, 67, 71, 73, 79, 83, 89, 97, 101, 103, 107, 109, 113, 127, 131,
   137, 139, 149, 151, 157, 163, 167, 173, 179, 181, 191, 193, 197, 199, 211, 223,
   227, 229, 233, 239, 241, 251, 257, 263, 269, 271, 277, 281, 283, 293, 307, 311]

/-- `p_t`, the (t+1)-th prime, for t < 64. -/
def romPrime (t : Nat) : Nat := romPrimes.getD t 0

theorem filter_prime_range : (List.range 312).filter Nat.Prime = romPrimes := by
  have hcongr : (List.range 312).filter Nat.Prime = (List.range 312).filter passesTrialDivision :=
    List.filter_congr fun n hn => by
      have hlt := List.mem_range.mp hn
      rw [Bool.eq_iff_iff, decide_eq_true_eq, prime_iff_passesTrialDivision (by omega)]
  rw [hcongr]
  decide +kernel

theorem prime_romPrime {t : Nat} (ht : t < 64) : (romPrime t).Prime := by
  have hmem : romPrime t ∈ (List.range 312).filter Nat.Prime := by
    rw [filter_prime_range, romPrime, List.getD_eq_getElem _ _ ht]
    exact List.getElem_mem ht
  simpa using List.of_mem_filter hmem

/-- `romPrimes` leaves no prime out. -/
theorem count_prime_romPrime {t : Nat} (ht : t < 64) : Nat.count Nat.Prime (romPrime t) = t := by
  rw [romPrime, ← filter_prime_range]
  exact count_getD_filter_range Nat.Prime (by rw [filter_prime_range]; exact ht)

/-- R150: `i * 2^32 + K[t]`, with i the integer part of the cube root of `p_t`, is `floor(cbrt(p_t) * 2^32)`. -/
theorem roundConstant_isCubeRoot : ∀ t < 64, ∃ i < 7,
    (i * 2 ^ 32 + (roundConstant t).toNat) ^ 3 ≤ romPrime t * 2 ^ 96 ∧
    romPrime t * 2 ^ 96 < (i * 2 ^ 32 + (roundConstant t).toNat + 1) ^ 3 := by decide +kernel

theorem roundConstants_getElem? {t : Nat} (ht : t < 64) : roundConstants[t]? = some (roundConstant t) := by
  have hlt : t < roundConstants.length := ht
  rw [roundConstant, List.getD_eq_getElem _ _ hlt, List.getElem?_eq_getElem hlt]

/-- Settles O56: the ROM read off its two halves, and each Word by the integer bounds of its cube root. -/
theorem roundConstantRomContent : Obligations.RoundConstantRomContent := by
  refine ⟨rfl, fun t ht => ⟨roundConstants_getElem? ht, ?_⟩⟩
  obtain ⟨i, -, hlower, hupper⟩ := roundConstant_isCubeRoot t ht
  refine ⟨romPrime t, i * 2 ^ 32 + (roundConstant t).toNat, prime_romPrime ht, count_prime_romPrime ht, hlower,
    hupper, ?_⟩
  have hword := (roundConstant t).isLt
  omega

/-! ## The message schedule (R153 to R155) -/

/-- The schedule after `n` steps of the expander: its first `16 + n` Words. -/
def expanded (block : List Byte) (n : Nat) : List Word :=
  (List.range' 16 n).foldl (fun w t => w ++ [expandWord w t]) (messageWords block)

theorem schedule_eq_expanded (block : List Byte) : schedule block = expanded block 48 := rfl

theorem expanded_succ (block : List Byte) (n : Nat) :
    expanded block (n + 1) = expanded block n ++ [expandWord (expanded block n) (16 + n)] := by
  simp [expanded, List.range'_concat]

@[simp] theorem expanded_length (block : List Byte) (n : Nat) : (expanded block n).length = 16 + n := by
  induction n with
  | zero => simp [expanded, messageWords]
  | succ n ih => rw [expanded_succ, List.length_append, ih, List.length_singleton, Nat.add_assoc]

/-- R155: a step of the expander leaves the Words before it as they are. -/
theorem expanded_getD (block : List Byte) {t n m : Nat} (ht : t < 16 + n) (hnm : n ≤ m) :
    (expanded block m).getD t 0 = (expanded block n).getD t 0 := by
  induction m, hnm using Nat.le_induction with
  | base => rfl
  | succ m hnm ih => rw [expanded_succ, List.getD_append _ _ _ _ (by rw [expanded_length]; omega), ih]

/-- R155: the recurrence for `W[t]` reads Words before `t` only. -/
theorem expandWord_congr {w w' : List Word} {t : Nat} (ht : 16 ≤ t) (h : ∀ i < t, w.getD i 0 = w'.getD i 0) :
    expandWord w t = expandWord w' t := by
  unfold expandWord
  rw [h (t - 2) (by omega), h (t - 7) (by omega), h (t - 15) (by omega), h (t - 16) (by omega)]

theorem schedule_getD_message (block : List Byte) {t : Nat} (ht : t < 16) :
    (schedule block).getD t 0 = messageWord block t := by
  rw [schedule_eq_expanded, expanded_getD block (n := 0) ht (by omega)]
  simp [expanded, messageWords, ht]

theorem schedule_getD_expandWord (block : List Byte) {t : Nat} (lo : 16 ≤ t) (hi : t < 64) :
    (schedule block).getD t 0 = expandWord (schedule block) t := by
  obtain ⟨n, rfl⟩ := Nat.exists_eq_add_of_le lo
  calc (schedule block).getD (16 + n) 0
      = (expanded block (n + 1)).getD (16 + n) 0 := expanded_getD block (by omega) (by omega)
    _ = expandWord (expanded block n) (16 + n) := by
        rw [expanded_succ, List.getD_append_right _ _ _ _ (by simp)]
        simp
    _ = expandWord (schedule block) (16 + n) :=
        expandWord_congr lo fun i hi => (expanded_getD block hi (by omega)).symm

/-- Settles O42: the message Words as numbers, and the recurrence on the finished schedule. -/
theorem scheduleFollowsTheRecurrence : Obligations.ScheduleFollowsTheRecurrence := by
  intro block _
  refine ⟨expanded_length block 48, fun t ht => ?_, fun t lo hi => schedule_getD_expandWord block lo hi⟩
  dsimp only
  rw [schedule_getD_message block ht, messageWord, be32_toNat]

/-! ## Rounds and compression (R157 to R163) -/

/-- Settles O43: every assignment reads a register that none before it has written. -/
theorem roundSequenceIsSimultaneous : Obligations.RoundSequenceIsSimultaneous := by
  intro k w r
  rfl

theorem rounds_succ (w : List Word) (n : Nat) (r : Working) :
    rounds w (n + 1) r = roundStep (roundConstant n) (w.getD n 0) (rounds w n r) := by
  rw [rounds, List.range_succ, List.foldl_append, List.foldl_cons, List.foldl_nil, rounds]

/-- The working registers of a compression: at its start, then after each of its 64 rounds. -/
def roundTrace (s : HashState) (block : List Byte) : List Working :=
  (List.range 65).map fun n => rounds (schedule block) n (loadWorking s)

theorem roundTrace_getElem? (s : HashState) (block : List Byte) {n : Nat} (hn : n < 65) :
    (roundTrace s block)[n]? = some (rounds (schedule block) n (loadWorking s)) := by
  rw [roundTrace, List.getElem?_map, List.getElem?_range hn, Option.map_some]

/-- Settles O44: the trace of the rounds. -/
theorem compressRunsSixtyFourRounds : Obligations.CompressRunsSixtyFourRounds := by
  intro s block
  refine ⟨roundTrace s block, by simp [roundTrace], roundTrace_getElem? s block (by decide), fun t ht => ?_, ?_⟩
  · rw [roundTrace_getElem? s block (by omega), roundTrace_getElem? s block (by omega), Option.map_some, rounds_succ]
  · rw [roundTrace_getElem? s block (by decide), Option.map_some, compress, feedForward]

/-! ## Blocks of 64 bytes (R164, R167) -/

theorem messageBlock_length {m : List Byte} {j : Nat} (h : 64 * (j + 1) ≤ m.length) :
    (messageBlock m j).length = 64 := by
  rw [messageBlock, List.length_take, List.length_drop]
  omega

/-- R167: the first `q` blocks of a message, one after the other, are its first `64 * q` bytes. -/
theorem flatten_messageBlocks (m : List Byte) (q : Nat) :
    ((List.range q).map (messageBlock m)).flatten = m.take (64 * q) := by
  induction q with
  | zero => simp
  | succ q ih =>
    rw [List.range_succ, List.map_append, List.flatten_append, ih, Nat.mul_succ, List.take_add]
    simp [messageBlock]

/-! ## The padding unit (R164, R165) -/

/-- R164: the padding unit cuts its byte sequence as a message is cut. -/
theorem pad_eq_messageBlocks (tail : List Byte) (L : Nat) :
    pad tail L = (List.range (padBlocks tail.length)).map (messageBlock (padBytes tail L)) := rfl

@[simp] theorem pad_length (tail : List Byte) (L : Nat) : (pad tail L).length = padBlocks tail.length := by
  simp [pad]

@[simp] theorem lengthField_length (L : Nat) : (lengthField L).length = 8 := rfl

/-- R164: the blocks have room for the tail, the byte 0x80 and the length field. -/
theorem length_add_nine_le_padBlocks {n : Nat} (hn : n ≤ 63) : n + 9 ≤ 64 * padBlocks n := by
  unfold padBlocks
  split <;> omega

section
variable {tail : List Byte} (htail : tail.length ≤ 63) (L : Nat)
include htail

theorem padBytes_length : (padBytes tail L).length = 64 * padBlocks tail.length := by
  have hroom := length_add_nine_le_padBlocks htail
  simp only [padBytes, List.length_append, List.length_singleton, List.length_replicate, lengthField_length]
  omega

theorem pad_flatten : (pad tail L).flatten = padBytes tail L := by
  rw [pad_eq_messageBlocks, flatten_messageBlocks, ← padBytes_length htail L, List.take_length]

theorem length_of_mem_pad {b : List Byte} (hb : b ∈ pad tail L) : b.length = 64 := by
  rw [pad_eq_messageBlocks] at hb
  obtain ⟨j, hj, rfl⟩ := List.mem_map.mp hb
  have hlt := List.mem_range.mp hj
  exact messageBlock_length (by rw [padBytes_length htail L]; omega)

/-- R165: the last eight bytes of the padded tail are the length field. -/
theorem padBytes_getD_lengthField (j : Nat) :
    (padBytes tail L).getD (64 * padBlocks tail.length - 8 + j) 0 = (lengthField L).getD j 0 := by
  have hroom := length_add_nine_le_padBlocks htail
  have hbefore : (tail ++ [0x80] ++ List.replicate (64 * padBlocks tail.length - 9 - tail.length) (0 : Byte)).length =
      64 * padBlocks tail.length - 8 := by
    simp only [List.length_append, List.length_singleton, List.length_replicate]
    omega
  rw [padBytes, List.getD_append_right _ _ _ _ (by omega), hbefore, Nat.add_sub_cancel_left]

end

theorem padBytes_getD_tail (tail : List Byte) (L : Nat) {i : Nat} (hi : i < tail.length) :
    (padBytes tail L).getD i 0 = tail.getD i 0 := by
  rw [padBytes, List.append_assoc, List.append_assoc, List.getD_append _ _ _ _ hi]

theorem padBytes_getD_marker (tail : List Byte) (L : Nat) : (padBytes tail L).getD tail.length 0 = 0x80 := by
  rw [padBytes, List.append_assoc, List.append_assoc, List.getD_append_right _ _ _ _ le_rfl, Nat.sub_self]
  rfl

theorem padBytes_getD_zero (tail : List Byte) (L : Nat) {i : Nat} (lo : tail.length < i)
    (hi : i < 64 * padBlocks tail.length - 8) : (padBytes tail L).getD i 0 = 0 := by
  have hstart : (tail ++ [0x80]).length ≤ i := by simpa using lo
  have hlt : i - (tail ++ [0x80]).length < 64 * padBlocks tail.length - 9 - tail.length := by
    rw [List.length_append, List.length_singleton]
    omega
  rw [padBytes, List.append_assoc, List.getD_append_right _ _ _ _ hstart,
    List.getD_append _ _ _ _ (by rwa [List.length_replicate]), List.getD_replicate _ hlt]

/-- R165: the bit length fits the 64 bits of its field. -/
theorem lengthField_getD_toNat {L j : Nat} (hL : L ≤ 2 ^ 61 - 1) (hj : j < 8) :
    ((lengthField L).getD j 0).toNat = 8 * L / 2 ^ (8 * (7 - j)) % 256 := by
  rw [lengthField, bytesBe64_getD_toNat _ hj, BitVec.toNat_ofNat,
    Nat.mod_eq_of_lt (show 8 * L < 2 ^ 64 by omega)]

/-- Settles O45: the blocks put together are `padBytes`, read part by part. -/
theorem paddingLayout : Obligations.PaddingLayout := by
  intro tail L htail hL
  dsimp only
  rw [pad_flatten htail L]
  exact ⟨pad_length tail L, fun b => length_of_mem_pad htail L, padBytes_length htail L,
    fun i => padBytes_getD_tail tail L, padBytes_getD_marker tail L, fun i => padBytes_getD_zero tail L,
    fun j hj => (congrArg BitVec.toNat (padBytes_getD_lengthField htail L j)).trans (lengthField_getD_toNat hL hj)⟩

/-! ## The digest and the message (R166 to R168) -/

theorem digestBytes_length (h : HashState) : (digestBytes h).length = 32 := rfl

/-- Settles O47: a byte of the digest is a lane of its Word. -/
theorem digestIsBigEndian : Obligations.DigestIsBigEndian := by
  intro s
  refine ⟨digestBytes_length s, fun i hi k hk => ?_⟩
  rw [digestBytes_getD s hi hk, laneOf_toNat]

/-- Settles O46: the full blocks, then one or two for what is left. -/
theorem messageBlockCount : Obligations.MessageBlockCount := by
  intro m
  dsimp only
  have hrest : (m.drop (64 * (m.length / 64))).length = m.length % 64 := by
    rw [List.length_drop]
    omega
  have hshort : (m.drop (64 * (m.length / 64))).length ≤ 63 := by omega
  rw [pad_length, hrest]
  refine ⟨?_, digestBytes_length _, ?_⟩
  · unfold padBlocks
    split <;> rfl
  · rw [List.flatten_append, List.length_append, flatten_messageBlocks, List.length_take, pad_flatten hshort,
      padBytes_length hshort, hrest, Nat.min_eq_left (by omega), Nat.mul_add]

end Sys2Proof.Machine
end

section
/-! SUPPORT. The commands (42_commands.md): their issue, the completion of BLOCK and FINAL, the error record's lack of
influence, and the message that the commands hash (O16 to O21, O23 to O27, O49, O52, O55). -/

namespace Sys2Proof.Machine

/-! ## The issue of a command (R190 to R203) -/

theorem exec_ready {s : State} (hb : s.busy = false) (i : Instr) : exec i s = .next (whenReady i s) := by
  simp [exec_eq_unlessBusy, unlessBusy, hb]

theorem exec_busy {s : State} (hb : s.busy = true) (i : Instr) :
    exec i s = .next (recordError .busyViolation s) := by
  simp [exec_eq_unlessBusy, unlessBusy, hb]

/-- Settles O16: when ready, NOP is the identity. -/
theorem nopChangesNothing : Obligations.NopChangesNothing :=
  fun _ => ⟨fun hb => exec_ready hb .nop, fun hb => exec_busy hb .nop⟩

/-- Settles O17: when ready, INIT is `startMessage`. -/
theorem initOpensAMessage : Obligations.InitOpensAMessage :=
  fun _ => ⟨fun hb => exec_ready hb .init, fun hb => exec_busy hb .init⟩

/-- Settles O21: when ready, CLRERR is `clearErrors`. -/
theorem clrerrClearsTheRecord : Obligations.ClrerrClearsTheRecord :=
  fun _ => ⟨fun hb => exec_ready hb .clrerr, fun hb => exec_busy hb .clrerr⟩

theorem acceptIfOpen_of_fits {s : State} (hm : s.mode = .opened) {n : Nat} (fits : s.count.toNat + n ≤ 2 ^ 61 - 1)
    (p : Pending) : acceptIfOpen p n s = accept p s := by
  have hlimit : ¬ s.count.toNat + n > maxBytes := Nat.not_lt.mpr fits
  rw [acceptIfOpen, if_neg (not_not.mpr hm), if_neg hlimit]

theorem exec_block_of_fits {s : State} (hb : s.busy = false) (hm : s.mode = .opened)
    (fits : s.count.toNat + 64 ≤ 2 ^ 61 - 1) : exec .block s = .next (accept .block s) := by
  rw [exec_ready hb, whenReady, acceptIfOpen_of_fits hm fits]

theorem exec_final_of_fits {s : State} {n : BitVec 6} (hb : s.busy = false) (hm : s.mode = .opened)
    (fits : s.count.toNat + n.toNat ≤ 2 ^ 61 - 1) : exec (.final n) s = .next (accept (.final n) s) := by
  rw [exec_ready hb, whenReady, acceptIfOpen_of_fits hm fits]

/-- Settles O18: within the limit BLOCK passes both checks of its acceptance. -/
theorem blockIsAccepted : Obligations.BlockIsAccepted :=
  fun _ hb hm fits => ⟨_, _, exec_block_of_fits hb hm fits⟩

/-- Settles O19: within the limit FINAL passes both checks of its acceptance. -/
theorem finalIsAccepted : Obligations.FinalIsAccepted :=
  fun _ _ hb hm fits => ⟨_, _, exec_final_of_fits hb hm fits⟩

/-- Settles O20: an open message ends at least 64 bytes below 2^61, and a tail has at most 63. -/
theorem finalNeverOverflows : Obligations.FinalNeverOverflows := by
  intro n s hs hb hm
  obtain ⟨-, hcount⟩ := hs.countOk.1 hm
  have hn : n.toNat < 2 ^ 6 := n.isLt
  have fits : s.count.toNat + n.toNat ≤ 2 ^ 61 - 1 := by omega
  exact ⟨fits, finalIsAccepted n s hb hm fits⟩

/-! ## The error record has no influence on a command (R206)

Two states differ in the error record only if `clearErrors` makes them equal. -/

@[simp] theorem clearErrors_clearErrors (s : State) : clearErrors (clearErrors s) = clearErrors s := rfl

@[simp] theorem clearErrors_recordError (e : ErrorCode) (s : State) :
    clearErrors (recordError e s) = clearErrors s := by
  unfold recordError
  split <;> rfl

@[simp] theorem clearErrors_accept (p : Pending) (s : State) :
    clearErrors (accept p s) = accept p (clearErrors s) := rfl

/-- The checks of an acceptance do not look at the error record. -/
theorem clearErrors_acceptIfOpen (p : Pending) (n : Nat) (s : State) :
    clearErrors (acceptIfOpen p n (clearErrors s)) = clearErrors (acceptIfOpen p n s) := by
  by_cases hm : s.mode = .opened
  · by_cases hn : s.count.toNat + n > maxBytes
    · simp [acceptIfOpen, hm, hn]
    · simp [acceptIfOpen, hm, hn]
  · simp [acceptIfOpen, hm]

theorem clearErrors_whenReady (i : Instr) (s : State) :
    clearErrors (whenReady i (clearErrors s)) = clearErrors (whenReady i s) := by
  cases i with
  | nop | init | clrerr => rfl
  | block => exact clearErrors_acceptIfOpen .block 64 s
  | final n => exact clearErrors_acceptIfOpen (.final n) n.toNat s

/-- R206: a command keeps two states apart in the error record only. -/
theorem exec_clearErrors {i : Instr} {s s' t t' : State} (hs : clearErrors s' = clearErrors s)
    (h : exec i s = .next t) (h' : exec i s' = .next t') : clearErrors t' = clearErrors t := by
  have hbusy : s'.busy = s.busy := by simpa using congrArg State.busy hs
  cases hb : s.busy with
  | true =>
    rw [exec_busy hb] at h
    rw [exec_busy (hbusy.trans hb)] at h'
    cases h; cases h'
    simpa using hs
  | false =>
    rw [exec_ready hb] at h
    rw [exec_ready (hbusy.trans hb)] at h'
    cases h; cases h'
    rw [← clearErrors_whenReady, hs, clearErrors_whenReady]

/-- Given the other's error record, a state that differs in nothing else is the other. -/
theorem withRecord_eq_of_clearErrors_eq {t t' : State} (h : clearErrors t' = clearErrors t) :
    { t' with err := t.err, errcode := t.errcode, errovf := t.errovf } = t :=
  congrArg (fun u : State => { u with err := t.err, errcode := t.errcode, errovf := t.errovf }) h

/-- Settles O23: cleared of their error records, the two runs end in the same state. -/
theorem errorRecordBlocksNoCommand : Obligations.ErrorRecordBlocksNoCommand := by
  intro i s t t' e o c h h'
  have hstart : clearErrors { s with err := e, errcode := c, errovf := o } = clearErrors s := rfl
  exact withRecord_eq_of_clearErrors_eq (exec_clearErrors hstart h h')

/-! ## The completion of BLOCK and FINAL (R196, R201) -/

theorem step_eq_engineStep {s : State} (hb : s.busy = true) (hd : s.delay = 0) : step s = engineStep s := by
  simp [step, engineTurn, hb, hd]

theorem engineStep_block {s : State} (hp : s.pend = some .block) : engineStep s = .next (completeBlock s) := by
  rw [engineStep, hp]

theorem engineStep_final {s : State} {n : BitVec 6} (hp : s.pend = some (.final n)) :
    engineStep s = .next (completeFinal n s) := by
  rw [engineStep, hp]

/-- Settles O24, field by field. -/
theorem blockCompletes : Obligations.BlockCompletes := by
  intro s hb hd hp
  refine ⟨completeBlock s, by rw [step_eq_engineStep hb hd, engineStep_block hp], ?_⟩
  simp

/-- R201: COUNT after a FINAL, as a sum of registers. -/
theorem ofNat_finalLength (n : BitVec 6) (s : State) :
    BitVec.ofNat 64 (finalLength n s) = s.count + n.setWidth 64 := by
  apply BitVec.eq_of_toNat_eq
  simp [finalLength]

/-- Settles O25, field by field; `absorb` is the fold of the compressions. -/
theorem finalCompletes : Obligations.FinalCompletes := by
  intro n s hb hd hp
  refine ⟨completeFinal n s, by rw [step_eq_engineStep hb hd, engineStep_final hp], completeFinal_hash n s,
    (completeFinal_count n s).trans (ofNat_finalLength n s), ?_⟩
  simp

theorem blkBytes_congr_of_lt {s t : State} {n : Nat} (h : ∀ j < n, blkByte t j = blkByte s j) :
    blkBytes t n = blkBytes s n :=
  List.map_congr_left fun j hj => h j (List.mem_range.mp hj)

/-- Settles O26: the completion reads BLK through its operand only. -/
theorem finalIgnoresBytesBeyondTheTail : Obligations.FinalIgnoresBytesBeyondTheTail := by
  intro n s m h
  have hlength : finalLength n { s with blk := m } = finalLength n s := rfl
  rw [completeFinal_hash, completeFinal_hash, completeFinal_count, completeFinal_count, blkBytes_congr_of_lt h, hlength]
  exact ⟨rfl, rfl⟩

/-! ## Whose turn it is (R80, R204, R239) -/

theorem engineTurn_of_idle {s : State} (hb : s.busy = false) : engineTurn s = false := by simp [engineTurn, hb]

/-- Settles O27: with BUSY = 0 the engine's step is not enabled. -/
theorem engineMovesOnlyWhileBusy : Obligations.EngineMovesOnlyWhileBusy := by
  intro s hb
  have hturn : step s = hostTurn (tick s) := by simp [step, engineTurn_of_idle hb]
  refine ⟨hturn, fun hline => ?_⟩
  rw [hturn, hostTurn, tick_host, hline]
  rfl

theorem decode_of_decodeTableWord {nbits w : Nat} {i : Instr} (h : decodeTableWord nbits w = some i) :
    decode (BitVec.ofNat 32 w) = .ok i := by
  unfold decodeTableWord at h
  split at h
  · cases hd : decode (BitVec.ofNat 32 w) with
    | ok j => simpa [hd, Except.toOption] using h
    | error => simp [hd, Except.toOption] at h
  · cases h

/-- The loader leaves one host turn before the engine's step. -/
theorem engineTurn_loadCommand (w : Word) (s : State) : engineTurn (loadCommand w s) = false := by
  simp [engineTurn, loadCommand]

/-- Settles O49: the loaded line is a CMD write, and its turn takes back the one that the loader added. -/
theorem fetchedWordRunsNext : Obligations.FetchedWordRunsNext :=
  fun s w i h => stepRunsTheDecodedCommand (s.withFetchWord 32 w) (BitVec.ofNat 32 w) i
    (engineTurn_loadCommand _ s) rfl (decode_of_decodeTableWord h)

/-! ## The digest stays (R202) -/

/-- Settles O52: of the events of a step, a completion needs MODE = OPEN. -/
theorem digestStaysUntilInitOrReset : Obligations.DigestStaysUntilInitOrReset := by
  intro s t hs hdone h
  have idle : s.busy ≠ true := fun hb => by
    obtain ⟨hopen, -⟩ := hs.busyOk.1 hb
    simp [hdone] at hopen
  cases step_message h with
  | kept same =>
    obtain ⟨hhash, -, hmode⟩ := same
    exact .inl ⟨hmode.trans hdone, hhash⟩
  | initIssued line => exact .inr (.inl line)
  | blockCompleted turn | finalCompleted turn => exact absurd turn.1 idle
  | wasReset line => exact .inr (.inr line)

/-! ## The message that the commands hash (R167, R205) -/

/-- Bytes after a full block do not change it. -/
theorem messageBlock_append {m : List Byte} {j : Nat} (h : 64 * (j + 1) ≤ m.length) (rest : List Byte) :
    messageBlock (m ++ rest) j = messageBlock m j := by
  rw [messageBlock, messageBlock, List.drop_append_of_le_length (by omega),
    List.take_append_of_le_length (by rw [List.length_drop]; omega)]

theorem chain_append {m : List Byte} {q : Nat} (h : 64 * q ≤ m.length) (rest : List Byte) :
    chain (m ++ rest) q = chain m q := by
  have hblocks : (List.range q).map (messageBlock (m ++ rest)) = (List.range q).map (messageBlock m) :=
    List.map_congr_left fun j hj => messageBlock_append (by have := List.mem_range.mp hj; omega) rest
  rw [chain, chain, hblocks]

theorem chain_succ (m : List Byte) (q : Nat) : chain m (q + 1) = compress (chain m q) (messageBlock m q) := by
  rw [chain, chain, absorb, absorb, List.range_succ, List.map_append, List.foldl_append]
  rfl

/-- A whole number of blocks, counted. -/
theorem length_eq_blocks {m : List Byte} (whole : m.length % 64 = 0) : 64 * (m.length / 64) = m.length := by omega

/-- R167: one more block after a whole number of blocks is one more compression. -/
theorem chain_append_block {m b : List Byte} (whole : m.length % 64 = 0) (hb : b.length = 64) :
    chain (m ++ b) ((m ++ b).length / 64) = compress (chain m (m.length / 64)) b := by
  have hlen := length_eq_blocks whole
  have hcount : (m ++ b).length / 64 = m.length / 64 + 1 := by rw [List.length_append]; omega
  have hlast : messageBlock (m ++ b) (m.length / 64) = b := by
    rw [messageBlock, hlen, List.drop_left, ← hb, List.take_length]
  rw [hcount, chain_succ, chain_append hlen.le, hlast]

/-- R167: a tail after a whole number of blocks is what the padding unit gets. -/
theorem sha256State_append_tail {m tail : List Byte} (whole : m.length % 64 = 0) (htail : tail.length ≤ 63) :
    sha256State (m ++ tail) = absorb (chain m (m.length / 64)) (pad tail (m ++ tail).length) := by
  have hlen := length_eq_blocks whole
  have hcount : (m ++ tail).length / 64 = m.length / 64 := by rw [List.length_append]; omega
  rw [sha256State, hcount, hlen, List.drop_left, chain_append hlen.le]

/-- R193: INIT opens the empty message. -/
theorem startMessage_absorbed {s : State} (hb : s.busy = false) : (startMessage s).Absorbed [] :=
  ⟨rfl, hb, rfl, rfl, rfl⟩

/-- R196: the completion of a BLOCK appends BLK to the message. -/
theorem completeBlock_absorbed {s : State} {m : List Byte} (h : s.Absorbed m) (fits : m.length + 64 ≤ 2 ^ 61 - 1) :
    (completeBlock (accept .block s)).Absorbed (m ++ blkBytes s 64) where
  openMode := (completeBlock_mode _).trans h.openMode
  ready := completeBlock_busy _
  whole := by simp [h.whole]
  counted := by
    rw [completeBlock_count, accept_count, BitVec.toNat_add, h.counted, List.length_append, blkBytes_length]
    exact Nat.mod_eq_of_lt (show m.length + 64 < 2 ^ 64 by omega)
  hashed := by
    rw [completeBlock_hash, accept_hash, h.hashed, blkBytes_congr 64 (accept_blk _ s),
      chain_append_block h.whole (blkBytes_length s 64)]

section
variable {s : State} {m : List Byte} (h : s.Absorbed m) (n : BitVec 6)
include h

theorem finalLength_of_absorbed : finalLength n s = (m ++ blkBytes s n.toNat).length := by
  rw [finalLength, h.counted, List.length_append, blkBytes_length]

/-- R201: the completion of a FINAL leaves the final state of the whole message. -/
theorem completeFinal_hash_of_absorbed :
    (completeFinal n (accept (.final n) s)).hash = sha256State (m ++ blkBytes s n.toNat) := by
  have hn : n.toNat < 2 ^ 6 := n.isLt
  have hlength : finalLength n (accept (.final n) s) = (m ++ blkBytes s n.toNat).length := finalLength_of_absorbed h n
  rw [completeFinal_hash, accept_hash, h.hashed, blkBytes_congr _ (accept_blk _ s), hlength,
    sha256State_append_tail h.whole (by rw [blkBytes_length]; omega)]

theorem completeFinal_count_of_absorbed (fits : m.length + n.toNat ≤ 2 ^ 61 - 1) :
    (completeFinal n (accept (.final n) s)).count.toNat = (m ++ blkBytes s n.toNat).length := by
  have hlength : finalLength n (accept (.final n) s) = (m ++ blkBytes s n.toNat).length := finalLength_of_absorbed h n
  rw [completeFinal_count, hlength, BitVec.toNat_ofNat, List.length_append, blkBytes_length]
  exact Nat.mod_eq_of_lt (show m.length + n.toNat < 2 ^ 64 by omega)

end

/-- R38: in MODE = DONE a byte of the DIGEST window is a byte of the digest of H. -/
theorem hostRead_digestByte_done {s : State} (hm : s.mode = .done) {j : Nat} (hj : j < 32) :
    hostRead (0x80 + j) 1 s = ((digestBytes s.hash).getD j 0).setWidth 32 := by
  rw [hostRead_digestByte (by omega) (by omega), Nat.add_sub_cancel_left, digestByte, if_pos hm]

/-- Settles O55: INIT, BLOCK and FINAL are accepted, and each completion follows the reference function. -/
theorem commandsComputeSha256 : Obligations.CommandsComputeSha256 := by
  refine ⟨fun s hb => ⟨startMessage s, exec_ready hb .init, startMessage_absorbed hb⟩, fun s m h fits => ?_,
    fun s m n h fits => ?_⟩
  · exact ⟨accept .block s, completeBlock (accept .block s),
      exec_block_of_fits h.ready h.openMode (h.counted ▸ fits), engineStep_block (accept_pend _ s),
      completeBlock_absorbed h fits⟩
  · refine ⟨accept (.final n) s, completeFinal n (accept (.final n) s),
      exec_final_of_fits h.ready h.openMode (h.counted ▸ fits), engineStep_final (accept_pend _ s),
      completeFinal_mode _ _, completeFinal_busy _ _, completeFinal_count_of_absorbed h n fits, fun j hj => ?_⟩
    rw [hostRead_digestByte_done (completeFinal_mode _ _) hj, completeFinal_hash_of_absorbed h n, sha256]

end Sys2Proof.Machine
end

section
/-! SUPPORT. The errors of host writes (60_exceptions.md): which of the five codes a write records, in the order of R227,
and the writes that complete and leave the error record as it is (O9 to O15). -/

namespace Sys2Proof.Machine

/-! ## The error record (R224) -/

theorem recordError_of_clear {s : State} (h : s.err = false) (e : ErrorCode) :
    recordError e s = { s with err := true, errcode := e.code } := by simp [recordError, h]

theorem recordError_of_set {s : State} (h : s.err = true) (e : ErrorCode) :
    recordError e s = { s with errovf := true } := by simp [recordError, h]

/-- Settles O9: the two branches of `recordError`. -/
theorem recordErrorKeepsTheFirst : Obligations.RecordErrorKeepsTheFirst :=
  fun e _ => ⟨fun h => recordError_of_clear h e, fun h => recordError_of_set h e⟩

/-- R224: the error record, ERR with ERRCODE and ERROVF, is the same in two states. -/
abbrev SameRecord (s t : State) : Prop := t.err = s.err ∧ t.errcode = s.errcode ∧ t.errovf = s.errovf

/-! ## Where a write goes (R72) -/

/-- R72: a 4-byte write to CMD. -/
abbrev WritesCmd (off width : Nat) : Prop := width = 4 ∧ off = 0x00

/-- R72: a well-formed write to BLK. -/
abbrev WritesBlk (off width : Nat) : Prop :=
  (width = 4 ∧ off % 4 = 0 ∧ 0x40 ≤ off ∧ off ≤ 0x7C) ∨ (width = 1 ∧ 0x40 ≤ off ∧ off ≤ 0x7F)

theorem hostWrite_cmd (c : Word) (s : State) : hostWrite 0x00 4 c s = command c s := rfl

theorem hostWrite_blk {off width : Nat} (h : WritesBlk off width) (v : Word) (s : State) :
    ∃ bs, hostWrite off width v s = .next (writeBlk off bs s) := by
  obtain ⟨rfl, ha, lo, hi⟩ | ⟨rfl, lo, hi⟩ := h
  · exact ⟨_, hostWrite_blkWord lo hi ha v s⟩
  · exact ⟨_, hostWrite_blkByte lo hi v s⟩

theorem hostWrite_elsewhere {off width : Nat} (hcmd : ¬ WritesCmd off width) (hblk : ¬ WritesBlk off width) (v : Word)
    (s : State) : hostWrite off width v s = .next (recordError .badAccess s) := by
  obtain ⟨hword, hbyte⟩ := not_or.mp hblk
  rw [hostWrite, if_neg hcmd, if_neg hword, if_neg hbyte]

/-- Settles O14: CMD and BLK are the only targets of `hostWrite`. -/
theorem otherWritesRecordBadAccess : Obligations.OtherWritesRecordBadAccess :=
  ⟨rfl, fun _ _ v s hcmd hword hbyte => hostWrite_elsewhere hcmd (not_or.mpr ⟨hword, hbyte⟩) v s⟩

/-! ## Writes while a command is pending (R225) -/

theorem command_busy {s : State} (hb : s.busy = true) (c : Word) :
    command c s = .next (recordError .busyViolation s) := by simp [command, hb]

theorem writeBlk_busy {s : State} (hb : s.busy = true) (off : Nat) (bs : List Byte) :
    writeBlk off bs s = recordError .busyViolation s := by simp [writeBlk, hb]

theorem hostWrite_busy {s : State} (hb : s.busy = true) {off width : Nat}
    (h : WritesCmd off width ∨ WritesBlk off width) (v : Word) :
    hostWrite off width v s = .next (recordError .busyViolation s) := by
  obtain ⟨rfl, rfl⟩ | hblk := h
  · rw [hostWrite_cmd, command_busy hb]
  · obtain ⟨bs, hbs⟩ := hostWrite_blk hblk v s
    rw [hbs, writeBlk_busy hb]

/-- Settles O13: each of the writes goes to CMD or BLK, and recording an error keeps everything but the record. -/
theorem busyRejectsCmdAndBlkWrites : Obligations.BusyRejectsCmdAndBlkWrites :=
  ⟨rfl, fun s hb => ⟨hostWrite_busy hb (.inl ⟨rfl, rfl⟩),
    fun _ v ha lo hi => hostWrite_busy hb (.inr (.inl ⟨rfl, ha, lo, hi⟩)) v,
    fun _ v lo hi => hostWrite_busy hb (.inr (.inr ⟨rfl, lo, hi⟩)) v,
    (recordError_busy _ s).trans hb, recordError_pend _ s, recordError_blk _ s, recordError_hash _ s,
    recordError_count _ s, recordError_mode _ s⟩⟩

/-! ## Illegal words (R221) -/

theorem decode_of_illegal {c : Word} (h : legal c = false) : ∃ e, decode c = .error e := by
  cases hd : decode c with
  | error e => exact ⟨e, rfl⟩
  | ok i => simp [eq_encode_of_decode hd, legal_encode] at h

theorem hostWrite_illegal {s : State} (hb : s.busy = false) {c : Word} (h : legal c = false) :
    hostWrite 0x00 4 c s = .next (recordError .illegalCmd s) := by
  obtain ⟨e, he⟩ := decode_of_illegal h
  simp [hostWrite_cmd, command, hb, he]

/-- Settles O10: an illegal word does not decode. -/
theorem illegalWordRecordsIllegalCmd : Obligations.IllegalWordRecordsIllegalCmd :=
  ⟨rfl, fun _ _ hb h => hostWrite_illegal hb h⟩

/-! ## The commands that absorb bytes (R222, R223) -/

/-- R195, R198: the number of bytes that a command absorbs, if it absorbs any. -/
def absorbedBytes : Instr → Option Nat
  | .block => some 64
  | .final n => some n.toNat
  | .nop | .init | .clrerr => none

/-- A command that absorbs bytes is its acceptance checks. -/
theorem whenReady_of_absorbedBytes {i : Instr} {n : Nat} (h : absorbedBytes i = some n) :
    ∃ p, whenReady i = acceptIfOpen p n := by
  cases i with
  | block => cases h; exact ⟨.block, rfl⟩
  | final k => cases h; exact ⟨.final k, rfl⟩
  | nop | init | clrerr => cases h

/-- R222: the first of the acceptance checks. -/
theorem exec_notOpen {s : State} {i : Instr} {n : Nat} (h : absorbedBytes i = some n) (hb : s.busy = false)
    (hm : s.mode ≠ .opened) : exec i s = .next (recordError .badSequence s) := by
  obtain ⟨p, hp⟩ := whenReady_of_absorbedBytes h
  rw [exec_ready hb, hp, acceptIfOpen, if_pos hm]

/-- R223: the second of the acceptance checks. -/
theorem exec_overflow {s : State} {i : Instr} {n : Nat} (h : absorbedBytes i = some n) (hb : s.busy = false)
    (hm : s.mode = .opened) (hover : s.count.toNat + n > 2 ^ 61 - 1) :
    exec i s = .next (recordError .lengthOverflow s) := by
  obtain ⟨p, hp⟩ := whenReady_of_absorbedBytes h
  have hlimit : s.count.toNat + n > maxBytes := hover
  rw [exec_ready hb, hp, acceptIfOpen, if_neg (not_not.mpr hm), if_pos hlimit]

/-- A command other than CLRERR leaves the error record, if it absorbs nothing or passes its acceptance checks. -/
theorem whenReady_sameRecord {s : State} {i : Instr} (hi : i ≠ .clrerr)
    (accepted : ∀ n, absorbedBytes i = some n → s.mode = .opened ∧ s.count.toNat + n ≤ 2 ^ 61 - 1) :
    SameRecord s (whenReady i s) := by
  cases habs : absorbedBytes i with
  | some n =>
    obtain ⟨p, hp⟩ := whenReady_of_absorbedBytes habs
    obtain ⟨hm, fits⟩ := accepted n habs
    rw [hp, acceptIfOpen_of_fits hm fits]
    exact ⟨rfl, rfl, rfl⟩
  | none =>
    cases i with
    | nop | init => exact ⟨rfl, rfl, rfl⟩
    | clrerr => exact absurd rfl hi
    | block | final => cases habs

/-- Settles O11: BLOCK and FINAL fail their first acceptance check; of the others CLRERR leaves no error at all. -/
theorem absorbingNeedsAnOpenMessage : Obligations.AbsorbingNeedsAnOpenMessage := by
  refine ⟨rfl, fun s hb hm => ⟨exec_notOpen rfl hb hm, fun n => exec_notOpen rfl hb hm, fun i t hi ht herr => ?_⟩⟩
  obtain rfl : whenReady i s = t := by simpa [exec_ready hb] using ht
  obtain rfl | rfl | rfl := hi
  · exact ⟨herr, rfl, rfl⟩
  · exact ⟨herr, rfl, rfl⟩
  · cases herr

/-- Settles O12: BLOCK passes its first acceptance check and fails the second. -/
theorem blockPastTheLimitIsRejected : Obligations.BlockPastTheLimitIsRejected :=
  ⟨rfl, fun s hb hm hover => ⟨exec_overflow rfl hb hm hover, (recordError_mode _ s).trans hm⟩⟩

/-! ## The order of the causes (R227) -/

/-- R102: a word that BLOCK's or FINAL's row of the opcode map selects. -/
abbrev AbsorbingWord (c : Word) : Prop := c = 0x00000002 ∨ c &&& 0xFFFFC0FF = 0x00000003

theorem exists_absorbedBytes_of_absorbingWord {c : Word} (h : AbsorbingWord c) :
    ∃ i n, c = encode i ∧ absorbedBytes i = some n := by
  obtain rfl | hfinal := h
  · exact ⟨.block, _, rfl, rfl⟩
  · exact ⟨.final (nField c), _, eq_encode_final_of_masked hfinal, rfl⟩

theorem absorbingWord_encode {i : Instr} {n : Nat} (h : absorbedBytes i = some n) : AbsorbingWord (encode i) := by
  cases i with
  | block => exact .inl rfl
  | final k => exact .inr (final_masked k)
  | nop | init | clrerr => cases h

theorem hostWrite_encode (i : Instr) (s : State) : hostWrite 0x00 4 (encode i) s = exec i s :=
  command_of_decode (decode_encode i) s

/-- R195, R200: below the limit of an open message, only BLOCK can exceed MAXBYTES. -/
theorem absorbedBytes_fits {s : State} {i : Instr} {n : Nat} (h : absorbedBytes i = some n)
    (hcount : s.count.toNat ≤ 2 ^ 61 - 64) (hblock : i = .block → s.count.toNat + 64 ≤ 2 ^ 61 - 1) :
    s.count.toNat + n ≤ 2 ^ 61 - 1 := by
  cases i with
  | block => cases h; exact hblock rfl
  | final k =>
    cases h
    have hk : k.toNat < 2 ^ 6 := k.isLt
    omega
  | nop | init | clrerr => cases h

/-- A write to CMD to which no cause of an error applies. -/
theorem hostWrite_cmd_completes {s : State} (hb : s.busy = false) {off width : Nat} (hcmd : WritesCmd off width)
    {c : Word} (hlegal : legal c = true) (hopen : AbsorbingWord c → s.mode = .opened)
    (hblock : c = 0x00000002 → s.count.toNat + 64 ≤ 2 ^ 61 - 1)
    (hcount : s.mode = .opened → s.count.toNat ≤ 2 ^ 61 - 64) :
    ∃ t, hostWrite off width c s = .next t ∧ (c ≠ 0x00000004 → SameRecord s t) := by
  obtain ⟨rfl, rfl⟩ := hcmd
  obtain ⟨i, rfl⟩ := exists_eq_encode_of_legal hlegal
  refine ⟨whenReady i s, by rw [hostWrite_encode, exec_ready hb], fun hne => ?_⟩
  have hi : i ≠ .clrerr := fun hi => hne (congrArg encode hi)
  refine whenReady_sameRecord hi fun n hn => ?_
  have hm := hopen (absorbingWord_encode hn)
  exact ⟨hm, absorbedBytes_fits hn (hcount hm) fun hi => hblock (congrArg encode hi)⟩

theorem hostWrite_blk_completes {s : State} (hb : s.busy = false) {off width : Nat} (h : WritesBlk off width)
    (v : Word) : ∃ t, hostWrite off width v s = .next t ∧ SameRecord s t := by
  obtain ⟨bs, hbs⟩ := hostWrite_blk h v s
  exact ⟨storeBytes off bs s, by rw [hbs, writeBlk_ready hb], rfl, rfl, rfl⟩

/-- Settles O15: a lemma for each cause, in the order of R227, and one for each target of a write that completes. -/
theorem writeErrorsHaveOnePriority : Obligations.WriteErrorsHaveOnePriority := by
  intro off width v s toCmd toBlk absorbs
  split_ifs with hbad hbusy hillegal hsequence hoverflow
  · exact hostWrite_elsewhere hbad.1 hbad.2 v s
  · exact hostWrite_busy hbusy (by simpa only [not_and_or, not_not] using hbad) v
  · obtain ⟨⟨rfl, rfl⟩, hlegal⟩ := hillegal
    exact hostWrite_illegal (eq_false_of_ne_true hbusy) hlegal
  · obtain ⟨⟨rfl, rfl⟩, hword, hm⟩ := hsequence
    obtain ⟨i, n, rfl, hn⟩ := exists_absorbedBytes_of_absorbingWord hword
    rw [hostWrite_encode, exec_notOpen hn (eq_false_of_ne_true hbusy) hm]
  · obtain ⟨⟨rfl, rfl⟩, rfl, hover⟩ := hoverflow
    have hm : s.mode = .opened := by_contra fun hm => hsequence ⟨⟨rfl, rfl⟩, .inl rfl, hm⟩
    exact (hostWrite_encode .block s).trans (exec_overflow rfl (eq_false_of_ne_true hbusy) hm hover)
  · intro hcount
    by_cases hcmd : toCmd
    · have hlegal : legal v = true := eq_true_of_ne_false fun h => hillegal ⟨hcmd, h⟩
      have hopen (hword : AbsorbingWord v) : s.mode = .opened := by_contra fun hm => hsequence ⟨hcmd, hword, hm⟩
      have hblock (hv : v = 0x00000002) : s.count.toNat + 64 ≤ 2 ^ 61 - 1 :=
        not_lt.mp fun hover => hoverflow ⟨hcmd, hv, hover⟩
      obtain ⟨t, ht, hrecord⟩ :=
        hostWrite_cmd_completes (eq_false_of_ne_true hbusy) hcmd hlegal hopen hblock hcount
      exact ⟨t, ht, fun hne => hrecord (hne.resolve_right (not_not.mpr hcmd))⟩
    · have hblk : toBlk := by_contra fun hblk => hbad ⟨hcmd, hblk⟩
      obtain ⟨t, ht, hrecord⟩ := hostWrite_blk_completes (eq_false_of_ne_true hbusy) hblk v
      exact ⟨t, ht, fun _ => hrecord⟩

end Sys2Proof.Machine
end

section
/-! SUPPORT. Reset and hazards (70_reset_and_hazards.md): what a pending command can come to, and what the block shows
after reset (O6 to O8, O29, O57). -/

namespace Sys2Proof.Machine

/-! ## Turns that do not stop (R60, R204) -/

/-- R60: a line whose access lies in the register space answers a next state. -/
theorem runLine_next {l : HostLine} (hl : l.wf = true) (s : State) : ∃ t, runLine l s = .next t := by
  cases l with
  | write off width v =>
    have hoff : off ≤ 0xFF := by simpa [HostLine.wf] using hl
    obtain ⟨t, ht, -⟩ := hostWrite_effect off width v s
    exact ⟨t, by simp [runLine, inSpace, hoff, ht]⟩
  | read off width => exact ⟨_, runLine_read (by simpa [HostLine.wf] using hl) width s⟩
  | busyLoop | assertReset => exact ⟨_, rfl⟩

theorem hostTurn_next {s : State} (hwf : s.host.wf) : ∃ t, hostTurn s = .next t := by
  unfold hostTurn
  split
  · exact ⟨s, rfl⟩
  · exact runLine_next (hwf _ (List.mem_of_getElem? ‹_›)) _

theorem step_eq_hostTurn {s : State} (hd : s.delay ≠ 0) : step s = hostTurn (tick s) := by
  simp [step, engineTurn, hd]

/-- R204: with a command pending the engine's step is its completion. -/
theorem engineStep_completes {s : State} (hp : s.pend ≠ none) :
    ∃ t, engineStep s = .next t ∧ t.busy = false ∧ t.pend = none := by
  obtain ⟨p, hp⟩ := Option.ne_none_iff_exists'.mp hp
  cases p with
  | block => exact ⟨_, engineStep_block hp, completeBlock_busy s, completeBlock_pend s⟩
  | final n => exact ⟨_, engineStep_final hp, completeFinal_busy n s, completeFinal_pend n s⟩

/-! ## Runs of the machine -/

section

variable {M : Host.Core} {s t u : M.State}

theorem run_succ_of_step (h : M.step s = .next t) (k : Nat) : M.run (k + 1) s = M.run k t := by
  rw [Host.Core.run, h]

theorem run_one_of_step (h : M.step s = .next t) : M.run 1 s = .next t := run_succ_of_step h 0

/-- One more step at the end of a run. -/
theorem run_succ_of_run {k : Nat} (hrun : M.run k s = .next u) (h : M.step u = .next t) :
    M.run (k + 1) s = .next t := by
  induction k generalizing s with
  | zero => cases hrun; exact run_one_of_step h
  | succ k ih =>
    rw [Host.Core.run] at hrun
    split at hrun
    · rw [run_succ_of_step ‹_›]; exact ih hrun
    · cases hrun
    · cases hrun

end

/-! ## What becomes of a pending command (R77, R251, R261) -/

/-- R77: the command that is pending and what it works on are the same in two states. -/
abbrev SameOperands (s u : State) : Prop := u.pend = s.pend ∧ u.hash = s.hash ∧ u.count = s.count ∧ u.blk = s.blk

theorem SameOperands.trans {s t u : State} (h : SameOperands s t) (h' : SameOperands t u) : SameOperands s u := by
  obtain ⟨hpend, hhash, hcount, hblk⟩ := h
  obtain ⟨hpend', hhash', hcount', hblk'⟩ := h'
  exact ⟨hpend'.trans hpend, hhash'.trans hhash, hcount'.trans hcount, hblk'.trans hblk⟩

/-- R251: before the engine's step is due, nothing but a reset ends BUSY. -/
theorem step_busy_or_reset {s t : State} (hb : s.busy = true) (hd : s.delay ≠ 0) (h : step s = .next t) :
    t.host.program = s.host.program ∧ (t.busy = true ∨ t.busy = false ∧ .assertReset ∈ s.host.program) := by
  cases step_effect h with
  | blockDone turn | finalDone turn => exact absurd turn.2 hd
  | wrote _ effect =>
    obtain ⟨e, rfl⟩ := effect.erred_of_busy hb
    simp [hb]
  | wasReset _ line => exact ⟨rfl, .inr ⟨rfl, List.mem_of_getElem? line⟩⟩
  | idled | read | passed | jumped => exact ⟨rfl, .inl hb⟩

/-- R261: a pending command is dropped by a reset within `delay` steps, or comes after exactly `delay` steps to the
engine's turn with its operands kept. -/
theorem run_until_engineTurn_or_reset {s : State} (hb : s.busy = true) (hwf : s.host.wf) :
    (∃ k ≤ s.delay, ∃ u, core.run k s = .next u ∧ u.busy = false ∧ .assertReset ∈ s.host.program) ∨
    (∃ u, core.run s.delay s = .next u ∧ u.busy = true ∧ u.delay = 0 ∧ SameOperands s u) := by
  induction hd : s.delay generalizing s with
  | zero => exact .inr ⟨s, rfl, hb, hd, rfl, rfl, rfl, rfl⟩
  | succ d ih =>
    have hne : s.delay ≠ 0 := by omega
    obtain ⟨t, ht⟩ : ∃ t, step s = .next t := step_eq_hostTurn hne ▸ hostTurn_next (s := tick s) hwf
    obtain ⟨hprogram, hbt | ⟨hbt, hreset⟩⟩ := step_busy_or_reset hb hne ht
    · obtain ⟨hblk, hhash, hcount, -, hpend, hdelay⟩ := pendingCommandKeepsItsOperands s t hb ht hbt
      have hwft : t.host.wf := by unfold HostAgent.wf; rw [hprogram]; exact hwf
      obtain ⟨k, hk, u, hrun, hu, hreset⟩ | ⟨u, hrun, hu, hud, huo⟩ := ih hbt hwft (by omega)
      · exact .inl ⟨k + 1, by omega, u, (run_succ_of_step ht k).trans hrun, hu, hprogram ▸ hreset⟩
      · exact .inr ⟨u, (run_succ_of_step ht d).trans hrun, hu, hud, .trans ⟨hpend, hhash, hcount, hblk⟩ huo⟩
    · exact .inl ⟨1, by omega, t, run_one_of_step ht, hbt, hreset⟩

/-- A command that has come to the engine's turn is completed by the next step. -/
theorem step_completes {u : State} (hb : u.busy = true) (hd : u.delay = 0) (hp : u.pend ≠ none) :
    ∃ t, engineStep u = .next t ∧ step u = .next t ∧ t.busy = false ∧ t.pend = none := by
  obtain ⟨t, ht, hbt, hpt⟩ := engineStep_completes hp
  exact ⟨t, ht, (step_eq_engineStep hb hd).trans ht, hbt, hpt⟩

/-- Settles O29: a reset ends BUSY within `delay` steps, or the step after them is the completion. -/
theorem busyEndsByCompletionOrReset : Obligations.BusyEndsByCompletionOrReset := by
  intro s hs hwf hb
  obtain ⟨k, hk, u, hrun, hu, -⟩ | ⟨u, hrun, hu, hud, hpend, -⟩ := run_until_engineTurn_or_reset hb hwf
  · exact ⟨k, by omega, u, hrun, hu⟩
  · obtain ⟨t, -, ht, hbt, -⟩ := step_completes hu hud (hpend ▸ (hs.busyOk.1 hb).2)
    exact ⟨s.delay + 1, le_rfl, t, run_succ_of_run hrun ht, hbt⟩

/-- Settles O57: a host without a reset line leaves only the completion. -/
theorem pendingCommandCompletesUnlessReset : Obligations.PendingCommandCompletesUnlessReset := by
  intro s hs hwf hnoReset hb
  obtain ⟨-, -, -, -, -, hreset⟩ | ⟨u, hrun, hu, hud, hpend, hhash, hcount, hblk⟩ :=
    run_until_engineTurn_or_reset hb hwf
  · exact absurd rfl (hnoReset _ hreset)
  · obtain ⟨t, hcompletes⟩ := step_completes hu hud (hpend ▸ (hs.busyOk.1 hb).2)
    exact ⟨u, t, hrun, hu, hpend, hhash, hcount, hblk, hcompletes⟩

/-! ## INIT, then CLRERR (R255) -/

/-- R28: no command leads back to MODE = IDLE. -/
theorem IssueEffect.keepsNotIdle {i : Instr} {s t : State} (h : IssueEffect s i t) (hm : s.mode ≠ .idle) :
    t.mode ≠ .idle := by
  by_cases hi : i = .init
  · subst hi
    cases h with
    | rejected _ e => simpa using hm
    | init => simp
  · obtain ⟨-, -, hmode⟩ := h.keepsMessage hi
    exact hmode ▸ hm

/-- Settles O8: both commands find BUSY = 0; between them they write all the listed elements but BUSY and BLK. -/
theorem initThenClrerrIsResetButOpen : Obligations.InitThenClrerrIsResetButOpen := fun s hb =>
  ⟨startMessage s, clearErrors (startMessage s), exec_ready hb .init, exec_ready (s := startMessage s) hb .clrerr,
    rfl, rfl, rfl, hb, rfl, rfl, rfl, rfl, fun _ _ hm h => (exec_issue h).keepsNotIdle hm⟩

/-! ## What the registers show after reset (R250, R251) -/

/-- Settles O6: BLK is empty and no digest is shown. -/
theorem resetHoldsSpecValues : Obligations.ResetHoldsSpecValues := by
  refine ⟨rfl, rfl, rfl, rfl, rfl, rfl, rfl, rfl, fun _ _ => rfl, statusRegisterLayout.1, by decide, by decide,
    fun j hj => ?blk, fun j hj => ?digest⟩
  case blk => rw [hostRead_blkByte (by omega) (by omega)]; rfl
  case digest => exact hostRead_digest_hidden (by decide) 1 (by omega) (by omega)

/-- R251: no register tells an asserted reset from the state after power-up: neither the host nor the draws are seen. -/
theorem hostRead_assertReset (off width : Nat) (s : State) :
    hostRead off width (assertReset s) = hostRead off width State.reset := rfl

/-- Settles O7: the elements and the registers are those of the reset state. -/
theorem resetInputRestoresTheBlock : Obligations.ResetInputRestoresTheBlock := by
  intro s
  obtain ⟨hhash, hcount, hmode, hbusy, hpend, herr, hcode, hovf, hblk, hreads⟩ := resetHoldsSpecValues
  refine ⟨assertReset s, rfl, hhash, hcount, hmode, hbusy, hpend, herr, hcode, hovf, hblk, rfl, ?_⟩
  simpa only [hostRead_assertReset] using hreads

end Sys2Proof.Machine
end
